-- ==== Sys2Proof/Word.lean ====
section
/-! DEFINITION. The two widths of the hardware's values (00_scope.md R2, R6): 8-bit data, 16-bit words. -/

namespace Sys2Proof

/-- An 8-bit value: a general register, a memory byte, a timer, the literal KK (R6, R20). -/
abbrev Byte := BitVec 8

/-- A 16-bit value: an instruction word, the program counter, the index register, a stack slot (R2, R23, R25, R26).
`+` on it is the spec's `trunc_16` of the exact sum. -/
abbrev Word := BitVec 16

end Sys2Proof
end

