-- ==== Sys2Proof/Syntax.lean ====
section
/-! DEFINITION. The instructions: one constructor per row of spec/opcode_table.json (30_encoding.md R74, R75).
An Unknown word is no instruction and has no constructor (R76, R84). -/

namespace Sys2Proof

/-- A general register's number, 0 to 15 (10_state.md R20). -/
abbrev Reg := Fin 16

/-- Register F, which the flag-writing instructions write (10_state.md R21). -/
abbrev vF : Reg := 15

/-- Register 0, the one `JP V0, addr` adds (42_control_flow.md R127). -/
abbrev v0 : Reg := 0

/-- The 34 instructions.  `x`, `y` are register numbers, `kk` the byte literal, `nnn` the 12-bit address (R71, R73).
`shr` and `shl` carry the `Y` their word holds, as R74 decodes it, and never read it (R158, R160). -/
inductive Instr where
  /-- `0.E0`, R100. -/
  | cls
  /-- `0.EE`, R120. -/
  | ret
  /-- `1NNN`, R121. -/
  | jp (nnn : BitVec 12)
  /-- `2NNN`, R122. -/
  | call (nnn : BitVec 12)
  /-- `3XKK`, R123. -/
  | seByte (x : Reg) (kk : Byte)
  /-- `4XKK`, R124. -/
  | sneByte (x : Reg) (kk : Byte)
  /-- `5XYN`, R125; N is ignored (R77). -/
  | seReg (x y : Reg)
  /-- `6XKK`, R150. -/
  | ldByte (x : Reg) (kk : Byte)
  /-- `7XKK`, R151. -/
  | addByte (x : Reg) (kk : Byte)
  /-- `8XY0`, R152. -/
  | ldReg (x y : Reg)
  /-- `8XY1`, R153. -/
  | orReg (x y : Reg)
  /-- `8XY2`, R154. -/
  | andReg (x y : Reg)
  /-- `8XY3`, R155. -/
  | xorReg (x y : Reg)
  /-- `8XY4`, R156. -/
  | addReg (x y : Reg)
  /-- `8XY5`, R157. -/
  | subReg (x y : Reg)
  /-- `8XY6`, R158. -/
  | shr (x y : Reg)
  /-- `8XY7`, R159. -/
  | subnReg (x y : Reg)
  /-- `8XYE`, R160. -/
  | shl (x y : Reg)
  /-- `9XYN`, R126; N is ignored (R77). -/
  | sneReg (x y : Reg)
  /-- `ANNN`, R200. -/
  | ldI (nnn : BitVec 12)
  /-- `BNNN`, R127. -/
  | jpV0 (nnn : BitVec 12)
  /-- `CXKK`, R161. -/
  | rnd (x : Reg) (kk : Byte)
  /-- `DXYN`, R101; `n` is a row COUNT, a number the assembler checks (R73, R79). -/
  | drw (x y : Reg) (n : Nat)
  /-- `EX9E`, R180. -/
  | skp (x : Reg)
  /-- `EXA1`, R181. -/
  | sknp (x : Reg)
  /-- `FX07`, R182. -/
  | ldVxDt (x : Reg)
  /-- `FX0A`, R183. -/
  | ldVxK (x : Reg)
  /-- `FX15`, R184. -/
  | ldDtVx (x : Reg)
  /-- `FX18`, R185. -/
  | ldStVx (x : Reg)
  /-- `FX1E`, R201. -/
  | addI (x : Reg)
  /-- `FX29`, R202. -/
  | ldF (x : Reg)
  /-- `FX33`, R203. -/
  | ldB (x : Reg)
  /-- `FX55`, R204. -/
  | storeRegs (x : Reg)
  /-- `FX65`, R205. -/
  | loadRegs (x : Reg)
  deriving DecidableEq, Repr

end Sys2Proof
end

