-- ==== Sys2Proof/WellFormed.lean ====
section
/-! DEFINITION. Which terms of Instr an assembler accepts: "An assembler given a value that does not fit its field
refuses it" (30_encoding.md R79). -/

namespace Sys2Proof

/-- Every operand fits its field.  Register numbers, `kk` and `nnn` fit by their types; the row count of DRW is a plain
number and must fit the 4-bit field N: "`n` is a number 0 to 15 in the `N` field" (R79). -/
def Instr.fits : Instr → Bool
  | .drw _ _ n => decide (n < 16)
  | .cls | .ret | .jp _ | .call _ | .seByte _ _ | .sneByte _ _ | .seReg _ _ | .ldByte _ _ | .addByte _ _ | .ldReg _ _
  | .orReg _ _ | .andReg _ _ | .xorReg _ _ | .addReg _ _ | .subReg _ _ | .shr _ _ | .subnReg _ _ | .shl _ _
  | .sneReg _ _ | .ldI _ | .jpV0 _ | .rnd _ _ | .skp _ | .sknp _ | .ldVxDt _ | .ldVxK _ | .ldDtVx _ | .ldStVx _
  | .addI _ | .ldF _ | .ldB _ | .storeRegs _ | .loadRegs _ => true

/-- The instruction is well formed: it has an encoding. -/
abbrev Instr.WellFormed (i : Instr) : Prop := i.fits = true

end Sys2Proof
end

