-- ==== Sys2Proof/Decode.lean ====
section
/-! DEFINITION. The decoder (30_encoding.md R71, R74), total on every word and on every list of bytes, and after it the
encoder, the opcode map's rows (R75) and the table's numbering of bits. -/

namespace Sys2Proof

/-! ## Fields (R6, R71) -/

/-- `w[hi:lo]` of R6: bits `hi` down to `lo`, as an unsigned number. -/
def field (w : Word) (hi lo : Nat) : Nat := w.toNat / 2 ^ lo % 2 ^ (hi + 1 - lo)

/-- `F`, the family: `w[15:12]`. -/
def fieldF (w : Word) : Nat := field w 15 12

/-- `X`: `w[11:8]` (C1 of 90_conflicts.md). -/
def fieldX (w : Word) : Reg := Fin.ofNat 16 (field w 11 8)

/-- `Y`: `w[7:4]` (C1). -/
def fieldY (w : Word) : Reg := Fin.ofNat 16 (field w 7 4)

/-- `N`: `w[3:0]`. -/
def fieldN (w : Word) : Nat := field w 3 0

/-- `KK` as the sub-opcode of families 0, E and F: `w[7:0]`. -/
def fieldLow (w : Word) : Nat := field w 7 0

/-- `KK` as the byte literal: `w[7:0]`. -/
def fieldKK (w : Word) : Byte := BitVec.ofNat 8 (field w 7 0)

/-- `NNN`: `w[11:0]`. -/
def fieldNNN (w : Word) : BitVec 12 := BitVec.ofNat 12 (field w 11 0)

/-! ## The decoder (R74) -/

/-- Why a word is no instruction: which of R76's four groups it lies in. -/
inductive UnknownWord where
  /-- Family 0, low byte neither 0xE0 nor 0xEE (0NNN of R77 among them). -/
  | family0
  /-- Family 8, low nibble 0x8 to 0xD or 0xF. -/
  | family8
  /-- Family E, low byte neither 0x9E nor 0xA1. -/
  | familyE
  /-- Family F, low byte none of the nine sub-opcodes. -/
  | familyF
  deriving DecidableEq, Repr

/-- What a word decodes to (R85): one of the 34 instructions, or Unknown by name. -/
inductive Decoded where
  /-- The instruction. -/
  | instr (i : Instr)
  /-- Unknown (R76); such a word is executed by R84. -/
  | unknown (why : UnknownWord)
  deriving DecidableEq, Repr

/-- Family 0, by `w[7:0]`; `X` is not examined (R77). -/
def decodeFamily0 (w : Word) : Decoded :=
  match fieldLow w with
  | 0xE0 => .instr .cls
  | 0xEE => .instr .ret
  | _ => .unknown .family0

/-- Family 8, by `w[3:0]`. -/
def decodeFamily8 (w : Word) : Decoded :=
  let x := fieldX w
  let y := fieldY w
  match fieldN w with
  | 0x0 => .instr (.ldReg x y)
  | 0x1 => .instr (.orReg x y)
  | 0x2 => .instr (.andReg x y)
  | 0x3 => .instr (.xorReg x y)
  | 0x4 => .instr (.addReg x y)
  | 0x5 => .instr (.subReg x y)
  | 0x6 => .instr (.shr x y)
  | 0x7 => .instr (.subnReg x y)
  | 0xE => .instr (.shl x y)
  | _ => .unknown .family8

/-- Family E, by `w[7:0]`. -/
def decodeFamilyE (w : Word) : Decoded :=
  match fieldLow w with
  | 0x9E => .instr (.skp (fieldX w))
  | 0xA1 => .instr (.sknp (fieldX w))
  | _ => .unknown .familyE

/-- Family F, by `w[7:0]`. -/
def decodeFamilyF (w : Word) : Decoded :=
  match fieldLow w with
  | 0x07 => .instr (.ldVxDt (fieldX w))
  | 0x0A => .instr (.ldVxK (fieldX w))
  | 0x15 => .instr (.ldDtVx (fieldX w))
  | 0x18 => .instr (.ldStVx (fieldX w))
  | 0x1E => .instr (.addI (fieldX w))
  | 0x29 => .instr (.ldF (fieldX w))
  | 0x33 => .instr (.ldB (fieldX w))
  | 0x55 => .instr (.storeRegs (fieldX w))
  | 0x65 => .instr (.loadRegs (fieldX w))
  | _ => .unknown .familyF

/-- `Decode(w)` of R74.  The last arm is family 0xF: `F` is a 4-bit number, so no other is left. -/
def decodeWord (w : Word) : Decoded :=
  match fieldF w with
  | 0x0 => decodeFamily0 w
  | 0x1 => .instr (.jp (fieldNNN w))
  | 0x2 => .instr (.call (fieldNNN w))
  | 0x3 => .instr (.seByte (fieldX w) (fieldKK w))
  | 0x4 => .instr (.sneByte (fieldX w) (fieldKK w))
  | 0x5 => .instr (.seReg (fieldX w) (fieldY w))
  | 0x6 => .instr (.ldByte (fieldX w) (fieldKK w))
  | 0x7 => .instr (.addByte (fieldX w) (fieldKK w))
  | 0x8 => decodeFamily8 w
  | 0x9 => .instr (.sneReg (fieldX w) (fieldY w))
  | 0xA => .instr (.ldI (fieldNNN w))
  | 0xB => .instr (.jpV0 (fieldNNN w))
  | 0xC => .instr (.rnd (fieldX w) (fieldKK w))
  | 0xD => .instr (.drw (fieldX w) (fieldY w) (fieldN w))
  | 0xE => decodeFamilyE w
  | _ => decodeFamilyF w

/-- The word of two bytes, high byte first (20_memory.md R53): `(hi << 8) OR lo`. -/
def wordOfBytes (hi lo : Byte) : Word := BitVec.ofNat 16 (hi.toNat * 256 + lo.toNat)

/-- The high byte of a word, the one at the lower address (R53). -/
def highByte (w : Word) : Byte := BitVec.ofNat 8 (w.toNat / 256)

/-- The low byte of a word. -/
def lowByte (w : Word) : Byte := BitVec.ofNat 8 w.toNat

/-- What a list of bytes decodes to: a word's meaning and the bytes after it, or too few bytes. -/
inductive DecodedBytes where
  /-- The first two bytes, decoded, and the rest (every instruction is 2 bytes, R70). -/
  | word (d : Decoded) (rest : List Byte)
  /-- Fewer than two bytes. -/
  | tooShort
  deriving DecidableEq, Repr

/-- The decoder on any bytes. -/
def decodeBytes : List Byte → DecodedBytes
  | hi :: lo :: rest => .word (decodeWord (wordOfBytes hi lo)) rest
  | _ => .tooShort

/-- The 16-bit word of a table row's bits: the row's `nbits` lowest bits of `w`, every bit above them 0. -/
def tableWord (nbits w : Nat) : Word := BitVec.ofNat 16 (w % 2 ^ nbits)

/-- The instruction the decoder reads from a word numbered as spec/opcode_table.json numbers it: the word's two bytes,
high byte first, given to the decoder. -/
def decodeTableWord (nbits w : Nat) : Option Instr :=
  match decodeBytes [highByte (tableWord nbits w), lowByte (tableWord nbits w)] with
  | .word (.instr i) _ => some i
  | .word (.unknown _) _ => none
  | .tooShort => none

/-! ## The encoder, from the opcode map of R75 and the fields of R71 -/

/-- The formats `NNN` of R72: family and a 12-bit address. -/
def packNNN (f : Nat) (nnn : BitVec 12) : Word := BitVec.ofNat 16 (f * 4096 + nnn.toNat)

/-- The formats `XKK` and `X` of R72: family, register, low byte. -/
def packXKK (f : Nat) (x : Reg) (kk : Nat) : Word := BitVec.ofNat 16 (f * 4096 + x.val * 256 + kk)

/-- The formats `XY`, `XYn` and `XYN` of R72: family, two registers, low nibble. -/
def packXYN (f : Nat) (x y : Reg) (n : Nat) : Word := BitVec.ofNat 16 (f * 4096 + x.val * 256 + y.val * 16 + n)

/-- The word of a well-formed instruction.  Ignored bits are 0, as an assembler writes them (R79). -/
def encode : Instr → Word
  | .cls => packXKK 0x0 0 0xE0
  | .ret => packXKK 0x0 0 0xEE
  | .jp nnn => packNNN 0x1 nnn
  | .call nnn => packNNN 0x2 nnn
  | .seByte x kk => packXKK 0x3 x kk.toNat
  | .sneByte x kk => packXKK 0x4 x kk.toNat
  | .seReg x y => packXYN 0x5 x y 0
  | .ldByte x kk => packXKK 0x6 x kk.toNat
  | .addByte x kk => packXKK 0x7 x kk.toNat
  | .ldReg x y => packXYN 0x8 x y 0x0
  | .orReg x y => packXYN 0x8 x y 0x1
  | .andReg x y => packXYN 0x8 x y 0x2
  | .xorReg x y => packXYN 0x8 x y 0x3
  | .addReg x y => packXYN 0x8 x y 0x4
  | .subReg x y => packXYN 0x8 x y 0x5
  | .shr x y => packXYN 0x8 x y 0x6
  | .subnReg x y => packXYN 0x8 x y 0x7
  | .shl x y => packXYN 0x8 x y 0xE
  | .sneReg x y => packXYN 0x9 x y 0
  | .ldI nnn => packNNN 0xA nnn
  | .jpV0 nnn => packNNN 0xB nnn
  | .rnd x kk => packXKK 0xC x kk.toNat
  | .drw x y n => packXYN 0xD x y n
  | .skp x => packXKK 0xE x 0x9E
  | .sknp x => packXKK 0xE x 0xA1
  | .ldVxDt x => packXKK 0xF x 0x07
  | .ldVxK x => packXKK 0xF x 0x0A
  | .ldDtVx x => packXKK 0xF x 0x15
  | .ldStVx x => packXKK 0xF x 0x18
  | .addI x => packXKK 0xF x 0x1E
  | .ldF x => packXKK 0xF x 0x29
  | .ldB x => packXKK 0xF x 0x33
  | .storeRegs x => packXKK 0xF x 0x55
  | .loadRegs x => packXKK 0xF x 0x65

/-! ## The opcode map as data (R75) -/

/-- One row's mask and pattern: a word `w` is of the row when `w AND mask = pattern`. -/
structure OpcodeRow where
  /-- The pattern with every field letter 0. -/
  pattern : Word
  /-- The bits the decoder examines. -/
  mask : Word
  deriving DecidableEq, Repr

/-- The row of R75 an instruction stands in. -/
def Instr.row : Instr → OpcodeRow
  | .cls => ⟨0x00E0, 0xF0FF⟩
  | .ret => ⟨0x00EE, 0xF0FF⟩
  | .jp _ => ⟨0x1000, 0xF000⟩
  | .call _ => ⟨0x2000, 0xF000⟩
  | .seByte _ _ => ⟨0x3000, 0xF000⟩
  | .sneByte _ _ => ⟨0x4000, 0xF000⟩
  | .seReg _ _ => ⟨0x5000, 0xF000⟩
  | .sneReg _ _ => ⟨0x9000, 0xF000⟩
  | .ldByte _ _ => ⟨0x6000, 0xF000⟩
  | .addByte _ _ => ⟨0x7000, 0xF000⟩
  | .ldReg _ _ => ⟨0x8000, 0xF00F⟩
  | .orReg _ _ => ⟨0x8001, 0xF00F⟩
  | .andReg _ _ => ⟨0x8002, 0xF00F⟩
  | .xorReg _ _ => ⟨0x8003, 0xF00F⟩
  | .addReg _ _ => ⟨0x8004, 0xF00F⟩
  | .subReg _ _ => ⟨0x8005, 0xF00F⟩
  | .shr _ _ => ⟨0x8006, 0xF00F⟩
  | .subnReg _ _ => ⟨0x8007, 0xF00F⟩
  | .shl _ _ => ⟨0x800E, 0xF00F⟩
  | .jpV0 _ => ⟨0xB000, 0xF000⟩
  | .rnd _ _ => ⟨0xC000, 0xF000⟩
  | .drw _ _ _ => ⟨0xD000, 0xF000⟩
  | .skp _ => ⟨0xE09E, 0xF0FF⟩
  | .sknp _ => ⟨0xE0A1, 0xF0FF⟩
  | .ldVxDt _ => ⟨0xF007, 0xF0FF⟩
  | .ldVxK _ => ⟨0xF00A, 0xF0FF⟩
  | .ldDtVx _ => ⟨0xF015, 0xF0FF⟩
  | .ldStVx _ => ⟨0xF018, 0xF0FF⟩
  | .addI _ => ⟨0xF01E, 0xF0FF⟩
  | .ldF _ => ⟨0xF029, 0xF0FF⟩
  | .ldB _ => ⟨0xF033, 0xF0FF⟩
  | .storeRegs _ => ⟨0xF055, 0xF0FF⟩
  | .loadRegs _ => ⟨0xF065, 0xF0FF⟩
  | .ldI _ => ⟨0xA000, 0xF000⟩

/-- The bits of a word that its instruction keeps: all of them, but for the ignored `X` of CLS and RET and the ignored
`N` of 5XYN and 9XYN (R77). -/
def Instr.usedBits : Instr → Word
  | .cls | .ret => 0xF0FF
  | .seReg _ _ | .sneReg _ _ => 0xFFF0
  | .jp _ | .call _ | .seByte _ _ | .sneByte _ _ | .ldByte _ _ | .addByte _ _ | .ldReg _ _
  | .orReg _ _ | .andReg _ _ | .xorReg _ _ | .addReg _ _ | .subReg _ _ | .shr _ _ | .subnReg _ _ | .shl _ _
  | .ldI _ | .jpV0 _ | .rnd _ _ | .drw _ _ _ | .skp _ | .sknp _ | .ldVxDt _ | .ldVxK _ | .ldDtVx _ | .ldStVx _
  | .addI _ | .ldF _ | .ldB _ | .storeRegs _ | .loadRegs _ => 0xFFFF

end Sys2Proof
end

