-- ==== Sys2Proof/Config.lean ====
section
/-! DEFINITION. The parameters of 00_scope.md R5 that the model names, and the one value the spec leaves OPEN.
The font bytes (`FONT_ROM`) stand in Machine/Font.lean. -/

namespace Sys2Proof.Config

/-- `MEM_SIZE` (R5): addresses are reduced modulo this (20_memory.md R51). -/
@[simp] abbrev memSize : Nat := 4096

/-- `PROG_BASE` (R5): the load address and the reset value of pc. -/
@[simp] abbrev progBase : Nat := 0x200

/-- `PROG_MAX_LEN` (R5): the longest image the loader takes (70_reset_and_hazards.md R273). -/
@[simp] abbrev progMaxLen : Nat := 0xE00

/-- `GLYPH_BYTES` (R5): bytes of one font glyph. -/
@[simp] abbrev glyphBytes : Nat := 5

/-- `SCREEN_W` (R5). -/
@[simp] abbrev screenW : Nat := 64

/-- `SCREEN_H` (R5). -/
@[simp] abbrev screenH : Nat := 32

/-- The random byte `rnd` (R5, 60_exceptions.md R249), OPEN: draw number `n` is `rnd n`, and nothing is known of it.
A claim about it holds for every value.  Assumption 2. -/
opaque rnd : Nat → Byte

end Sys2Proof.Config
end

