-- ==== Sys2Proof/Machine/Font.lean ====
section
/-! DEFINITION. `FONT_ROM` (70_reset_and_hazards.md R272) and the reset contents of memory (R270). -/

namespace Sys2Proof.Machine

/-- `FONT_ROM`: 16 glyphs of 5 bytes, glyph `d` at `5*d` (R272).  The bytes are the spec's default, which it marks as
general knowledge (D16, G4).  Assumption 6. -/
def fontRom : List Byte :=
  [0xF0, 0x90, 0x90, 0x90, 0xF0,
   0x20, 0x60, 0x20, 0x20, 0x70,
   0xF0, 0x10, 0xF0, 0x80, 0xF0,
   0xF0, 0x10, 0xF0, 0x10, 0xF0,
   0x90, 0x90, 0xF0, 0x10, 0x10,
   0xF0, 0x80, 0xF0, 0x10, 0xF0,
   0xF0, 0x80, 0xF0, 0x90, 0xF0,
   0xF0, 0x10, 0x20, 0x40, 0x40] ++
  [0xF0, 0x90, 0xF0, 0x90, 0xF0,
   0xF0, 0x90, 0xF0, 0x10, 0xF0,
   0xF0, 0x90, 0xF0, 0x90, 0x90,
   0xE0, 0x90, 0xE0, 0x90, 0xE0,
   0xF0, 0x80, 0x80, 0x80, 0xF0,
   0xE0, 0x90, 0x90, 0x90, 0xE0,
   0xF0, 0x80, 0xF0, 0x80, 0xF0,
   0xF0, 0x80, 0xF0, 0x80, 0x80]

/-- What an address that memory does not list reads as: the font below 0x050 (R272), 0 elsewhere (R270, D15;
assumption 7). -/
def unlistedByte (a : Nat) : Byte := fontRom.getD a 0

end Sys2Proof.Machine
end

