-- ==== Sys2Proof/Machine/State.lean ====
section
/-! DEFINITION. The machine's state (10_state.md R39), its reset value (70_reset_and_hazards.md R270), and the reasons a
step can stop.  Plain data throughout. -/

namespace Sys2Proof.Machine

/-- Memory (R32): the bytes that differ from the reset contents, as (address, byte) pairs with addresses strictly rising.
What an unlisted address reads as is `unlistedByte` (Machine/Font.lean). -/
abbrev Memory := List Host.Cell

/-- The framebuffer (R30): 32 rows of 64 cells; linear cell `k` is row `k / 64`, column `k % 64`. -/
abbrev Framebuffer := Vector (Vector Bool 64) 32

/-- `fault_cause` (R34, 60_exceptions.md R231). -/
inductive FaultCause where
  /-- Code 0: no fault since reset. -/
  | none
  /-- Code 1: CALL with sp = 16 (R232). -/
  | stackOverflow
  /-- Code 2: RET with sp = 0 (R233). -/
  | stackUnderflow
  /-- Code 3: SKP or SKNP with V[X] > 0xF (R234). -/
  | keyIndexRange
  deriving DecidableEq, Repr

/-- The state of the core.  R39 lists every field but the last two, which are the model's own and
stand for what other rules need: the random bytes (30_encoding.md R81) and the loader's test (70_reset_and_hazards.md R273). -/
structure State where
  /-- `V[0]` to `V[15]` (R20). -/
  v : Vector Byte 16
  /-- The index register `I` (R25). -/
  i : Word
  /-- The program counter (R23). -/
  pc : Word
  /-- The call stack's 16 slots, a storage of its own (R26). -/
  stack : Vector Word 16
  /-- The stack pointer, a count of occupied slots, 0 to 16 (R27). -/
  sp : Fin 17
  /-- The delay timer (R28). -/
  dt : Byte
  /-- The sound timer (R28). -/
  st : Byte
  /-- The keypad snapshot, true = down (R29). -/
  key : Vector Bool 16
  /-- The framebuffer, true = on (R30). -/
  fb : Framebuffer
  /-- The framebuffer's dirty flag (R31). -/
  dirty : Bool
  /-- The 4096 bytes of memory (R32). -/
  mem : Memory
  /-- `fault_cause` (R34). -/
  faultCause : FaultCause
  /-- `fault_pc` (R34). -/
  faultPc : Word
  /-- `fault_word` (R34). -/
  faultWord : Word
  /-- MODEL'S OWN: how many random bytes have been drawn (assumption 2). -/
  draws : Nat
  /-- MODEL'S OWN: a cycle has run since reset (assumption 3). -/
  started : Bool
  deriving DecidableEq, Repr

/-- The startup state (R270).  Memory lists nothing: the font and the zeros are what an unlisted address reads as.
`I`, the framebuffer, `dirty` and the fault status are the spec's decision D15 (assumption 7); `draws` and
`started` are the model's own (assumptions 2 and 3). -/
def State.reset : State where
  v := Vector.replicate 16 0
  i := 0
  pc := 0x200
  stack := Vector.replicate 16 0
  sp := 0
  dt := 0
  st := 0
  key := Vector.replicate 16 false
  fb := Vector.replicate 32 (Vector.replicate 64 false)
  dirty := false
  mem := []
  faultCause := .none
  faultPc := 0
  faultWord := 0
  draws := 0
  started := false

/-- The ways a step could stop without a next state: none.  A fault of this hardware writes the fault status and halts
the core (60_exceptions.md R235, R236), and a halted core's cycles change nothing, so each is a next state; memory
accesses never fault (20_memory.md R51).  Nobody raises one; safe. -/
inductive Fault : Type
  deriving DecidableEq, Repr

/-- The ways a step is refused for want of a meaning. -/
inductive Refusal where
  /-- Raised by an arm of `exec` whose instruction has no meaning yet; none is left.  Safe: the run stops. -/
  | notModelled (mnemonic : String)
  deriving DecidableEq, Repr

end Sys2Proof.Machine
end

