-- ==== Sys2Proof/Machine/Ops.lean ====
section
/-! DEFINITION. The named operations over registers, memory, the call stack, the keypad and the framebuffer, and taking a
fault, each said once. -/

namespace Sys2Proof.Machine

/-! ## Memory (20_memory.md) -/

/-- The byte at an address. -/
def Memory.read : Memory → Nat → Byte
  | [], a => unlistedByte a
  | (k, b) :: m, a => if k = a then b else Memory.read m a

/-- A byte put at an address, keeping the canonical form: a byte equal to what the unlisted address reads as is not
listed. -/
def Memory.write : Memory → Nat → Byte → Memory
  | [], a, b => if b = unlistedByte a then [] else [(a, b)]
  | (k, c) :: m, a, b =>
    if a < k then
      if b = unlistedByte a then (k, c) :: m else (a, b) :: (k, c) :: m
    else if a = k then
      if b = unlistedByte a then m else (a, b) :: m
    else (k, c) :: Memory.write m a b

/-- The canonical form from address `lo` up: addresses strictly rising and inside memory, no entry equal to what its
address reads as when unlisted. -/
def Memory.wfFrom : Nat → Memory → Bool
  | _, [] => true
  | lo, (k, b) :: m =>
    decide (lo ≤ k) && decide (k < Config.memSize) && decide (b ≠ unlistedByte k) && Memory.wfFrom (k + 1) m

/-- The canonical form. -/
def Memory.wf (m : Memory) : Bool := Memory.wfFrom 0 m

/-- Consecutive bytes put from an address up, each address reduced modulo 4096 (R51). -/
def Memory.writeList : Memory → Nat → List Byte → Memory
  | m, _, [] => m
  | m, a, b :: bs => Memory.writeList (m.write (a % Config.memSize) b) (a + 1) bs

namespace State

/-- `MemRead(addr, 1)`: the byte at `addr mod 4096` (R51). -/
def memRead (s : State) (addr : Nat) : Byte := s.mem.read (addr % Config.memSize)

/-- `MemWrite(addr, 1, b)`: the byte at `addr mod 4096` (R51). -/
def memWrite (s : State) (addr : Nat) (b : Byte) : State :=
  { s with mem := s.mem.write (addr % Config.memSize) b }

/-- The fetched word: `(MemRead(pc, 1) << 8) OR MemRead(trunc_16(pc + 1), 1)` (R53). -/
def fetchWord (s : State) : Word := wordOfBytes (s.memRead s.pc.toNat) (s.memRead (s.pc + 1).toNat)

/-- The two bytes of a word put where the next fetch reads (R53). -/
def putFetchWord (s : State) (w : Word) : State :=
  (s.memWrite s.pc.toNat (highByte w)).memWrite (s.pc + 1).toNat (lowByte w)

/-! ## Registers (10_state.md R20, R24, R25) -/

/-- `V[r]`. -/
def V (s : State) (r : Reg) : Byte := s.v[r.val]

/-- `V[r] <- b`. -/
def setV (s : State) (r : Reg) (b : Byte) : State := { s with v := s.v.set r.val b }

/-- `I <- w`. -/
def setI (s : State) (w : Word) : State := { s with i := w }

/-- `pc <- w`. -/
def setPc (s : State) (w : Word) : State := { s with pc := w }

/-- `pc <- trunc_16(pc + 2)` (R24, 30_encoding.md R82). -/
def advance (s : State) : State := s.setPc (s.pc + 2)

/-- The two steps of a skip (30_encoding.md R83): `+2`, and a further `+2` when the condition holds. -/
def skipIf (s : State) (cond : Bool) : State := if cond then s.advance.advance else s.advance

/-- `DT <- b`. -/
def setDt (s : State) (b : Byte) : State := { s with dt := b }

/-- `ST <- b`. -/
def setSt (s : State) (b : Byte) : State := { s with st := b }

/-! ## The call stack (R26, R27, D10) -/

/-- A push: `stack[sp] <- w; sp <- sp + 1`.  None when the stack is full. -/
def push (s : State) (w : Word) : Option State :=
  if h : s.sp.val < 16 then
    some { s with stack := s.stack.set s.sp.val w, sp := ⟨s.sp.val + 1, by omega⟩ }
  else Option.none

/-- A pop: `sp <- sp - 1`, and the value of `stack[sp]`, which the slot keeps.  None when the stack is empty. -/
def pop (s : State) : Option (Word × State) :=
  if h : 0 < s.sp.val then
    some (s.stack[s.sp.val - 1], { s with sp := ⟨s.sp.val - 1, by omega⟩ })
  else Option.none

/-! ## The keypad (R29) -/

/-- `key[k]`. -/
def keyDown (s : State) (k : Fin 16) : Bool := s.key[k.val]

/-- `min{k : key[k] = 1}`, if a key is down (44_keys_timers.md R183). -/
def lowestKey (s : State) : Option (Fin 16) := (List.finRange 16).find? s.keyDown

/-! ## Random bytes -/

/-- `draw rnd` (60_exceptions.md R249): the next free value.  Assumption 2. -/
def drawnByte (s : State) : Byte := Config.rnd s.draws

/-- The drawn byte is used up. -/
def noteDraw (s : State) : State := { s with draws := s.draws + 1 }

/-! ## Faults (60_exceptions.md R231, R235, R236) -/

/-- The core is halted: a fault has been taken since reset (R236). -/
def halted (s : State) : Bool := decide (s.faultCause ≠ .none)

/-- Taking a fault (R235): the cause, the pc of the faulting instruction and its word are written, and nothing else
changes.  Every fault is raised before its instruction's first write, so pc and the word at it are still those of the
fetch.  There is no handler and no return from a fault (R241); only reset clears the status (R34). -/
def takeFault (s : State) (cause : FaultCause) : State :=
  { s with faultCause := cause, faultPc := s.pc, faultWord := s.fetchWord }

end State

/-- The number of a cause (R231, D33). -/
def FaultCause.code : FaultCause → Nat
  | .none => 0
  | .stackOverflow => 1
  | .stackUnderflow => 2
  | .keyIndexRange => 3

/-! ## The framebuffer (R30, 41_display.md) -/

/-- A cell by row and column. -/
def Framebuffer.cell (fb : Framebuffer) (row : Fin 32) (col : Fin 64) : Bool := (fb[row.val])[col.val]

/-- `fb[k]`, with `k = row * 64 + col` (R30). -/
def Framebuffer.linear (fb : Framebuffer) (k : Fin 2048) : Bool :=
  fb.cell ⟨k.val / 64, by omega⟩ ⟨k.val % 64, by omega⟩

/-- A cell written. -/
def Framebuffer.setCell (fb : Framebuffer) (row : Fin 32) (col : Fin 64) (b : Bool) : Framebuffer :=
  fb.set row.val ((fb[row.val]).set col.val b)

/-- Every cell off. -/
def Framebuffer.blank : Framebuffer := Vector.replicate 32 (Vector.replicate 64 false)

/-- A sprite being drawn: the framebuffer so far, and whether a cell has gone from on to off. -/
structure Canvas where
  /-- The framebuffer so far. -/
  fb : Framebuffer
  /-- `collision`. -/
  collision : Bool
  deriving DecidableEq, Repr

/-- One toggled cell (R101): `if fb[k] = 1: collision <- 1; fb[k] <- fb[k] XOR 1`. -/
def Canvas.toggle (a : Canvas) (row : Fin 32) (col : Fin 64) : Canvas :=
  ⟨a.fb.setCell row col (!a.fb.cell row col), a.collision || a.fb.cell row col⟩

/-- Column `c` of a sprite row: bit `7 - c`, the most significant bit leftmost (R102; assumption 8). -/
def spriteBit (rowByte : Byte) (c : Nat) : Bool := rowByte.getLsbD (7 - c)

/-- One pixel of a sprite: column `(cx + c) mod 64`, row `py` (R103). -/
def Canvas.drawPixel (cx : Nat) (py : Fin 32) (rowByte : Byte) (a : Canvas) (c : Nat) : Canvas :=
  if spriteBit rowByte c then a.toggle py (Fin.ofNat 64 (cx + c)) else a

/-- One row of a sprite, columns 0 to 7. -/
def Canvas.drawRow (cx : Nat) (py : Fin 32) (rowByte : Byte) (a : Canvas) : Canvas :=
  (List.range 8).foldl (Canvas.drawPixel cx py rowByte) a

/-- A sprite of `n` rows from address `base`, at column `cx` and row `cy`, wrapped per axis (R101, R103). -/
def State.drawSprite (s : State) (cx cy base n : Nat) : Canvas :=
  (List.range n).foldl
    (fun a r => a.drawRow cx (Fin.ofNat 32 (cy + r)) (s.memRead (base + r))) ⟨s.fb, false⟩

/-- The framebuffer replaced and marked dirty (R31, C6). -/
def State.setFb (s : State) (fb : Framebuffer) : State := { s with fb := fb, dirty := true }

/-- Registers `V[0]` to `V[x]`, in order (45_index_memory.md R204, R205). -/
def regsUpTo (x : Reg) : List Reg := (List.finRange 16).take (x.val + 1)

end Sys2Proof.Machine
end

