-- ==== Sys2Proof/Machine/Flags.lean ====
section
/-! DEFINITION. The values written to VF as a flag (10_state.md R21), each computed from the operands before the
instruction (00_scope.md R8). -/

namespace Sys2Proof.Machine

/-- A flag as the value of VF: 1 or 0. -/
def flagByte (b : Bool) : Byte := if b then 1 else 0

/-- The carry of ADD Vx, Vy: the exact sum exceeds 255 (43_alu.md R156). -/
def carryFlag (a b : Byte) : Byte := flagByte (decide (a.toNat + b.toNat > 255))

/-- The not-borrow of SUB and SUBN: the minuend is strictly greater (R157, R159). -/
def greaterFlag (a b : Byte) : Byte := flagByte (decide (a.toNat > b.toNat))

/-- The bit SHR shifts out: bit 0 (R158). -/
def lowBitFlag (a : Byte) : Byte := flagByte (a.getLsbD 0)

/-- The bit SHL shifts out: bit 7 (R160). -/
def highBitFlag (a : Byte) : Byte := flagByte (a.getLsbD 7)

/-- ADD I, Vx: the exact sum exceeds 0xFFF (45_index_memory.md R201). -/
def indexFlag (i : Word) (a : Byte) : Byte := flagByte (decide (i.toNat + a.toNat > 0xFFF))

/-- `V[x] <- res; V[0xF] <- f; pc <- trunc_16(pc + 2)`: the result, then the flag, so that with x = F the flag stays
(R163, C13; assumption 9). -/
def State.setResultAndFlag (s : State) (x : Reg) (res f : Byte) : State := ((s.setV x res).setV vF f).advance

end Sys2Proof.Machine
end

