-- ==== Sys2Proof/Machine/Operands.lean ====
section
/-! DEFINITION. The operand forms (30_encoding.md R73): a register, the byte literal, the 12-bit address zero-extended, a
key index, and the values read through I. -/

namespace Sys2Proof.Machine

/-- `zext_16(NNN)` (R73). -/
def addrOperand (nnn : BitVec 12) : Word := nnn.setWidth 16

/-- `zext_16` of a register's value, for 16-bit sums (42_control_flow.md R127, 45_index_memory.md R201). -/
def State.wideV (s : State) (r : Reg) : Word := (s.V r).setWidth 16

/-- The key a register selects: `V[x]` if it is at most 0xF (44_keys_timers.md R180, R181). -/
def State.keyOperand (s : State) (x : Reg) : Option (Fin 16) :=
  if h : (s.V x).toNat < 16 then some ⟨(s.V x).toNat, h⟩ else none

/-- The address of font digit `V[x]`: the whole of `V[x]` times 5 (45_index_memory.md R202). -/
def State.fontAddress (s : State) (x : Reg) : Word := BitVec.ofNat 16 ((s.V x).toNat * Config.glyphBytes)

/-- The three decimal digits of a byte, hundreds first (45_index_memory.md R203). -/
def bcdDigits (b : Byte) : List Byte :=
  [BitVec.ofNat 8 (b.toNat / 100), BitVec.ofNat 8 (b.toNat / 10 % 10), BitVec.ofNat 8 (b.toNat % 10)]

/-- The values of `V[0]` to `V[x]`. -/
def State.valuesUpTo (s : State) (x : Reg) : List Byte := (regsUpTo x).map s.V

/-- `I + X + 1`, wrapped at 16 bits (45_index_memory.md R204, R205). -/
def State.indexPast (s : State) (x : Reg) : Word := s.i + BitVec.ofNat 16 (x.val + 1)

end Sys2Proof.Machine
end

