-- ==== Sys2Proof/Machine/Alu.lean ====
section
/-! DEFINITION. The ALU and register instructions (43_alu.md).  `+` and `-` on bytes are `trunc_8` of the exact result
(R162). -/

namespace Sys2Proof.Machine

/-- LD Vx, byte (R150). -/
def execLdByte (x : Reg) (kk : Byte) (s : State) : Host.Outcome State Fault Refusal :=
  .next (s.setV x kk).advance

/-- ADD Vx, byte (R151): no flag. -/
def execAddByte (x : Reg) (kk : Byte) (s : State) : Host.Outcome State Fault Refusal :=
  .next (s.setV x (s.V x + kk)).advance

/-- LD Vx, Vy (R152). -/
def execLdReg (x y : Reg) (s : State) : Host.Outcome State Fault Refusal :=
  .next (s.setV x (s.V y)).advance

/-- OR Vx, Vy (R153): VF is not reset. -/
def execOrReg (x y : Reg) (s : State) : Host.Outcome State Fault Refusal :=
  .next (s.setV x (s.V x ||| s.V y)).advance

/-- AND Vx, Vy (R154). -/
def execAndReg (x y : Reg) (s : State) : Host.Outcome State Fault Refusal :=
  .next (s.setV x (s.V x &&& s.V y)).advance

/-- XOR Vx, Vy (R155). -/
def execXorReg (x y : Reg) (s : State) : Host.Outcome State Fault Refusal :=
  .next (s.setV x (s.V x ^^^ s.V y)).advance

/-- ADD Vx, Vy (R156). -/
def execAddReg (x y : Reg) (s : State) : Host.Outcome State Fault Refusal :=
  .next (s.setResultAndFlag x (s.V x + s.V y) (carryFlag (s.V x) (s.V y)))

/-- SUB Vx, Vy (R157). -/
def execSubReg (x y : Reg) (s : State) : Host.Outcome State Fault Refusal :=
  .next (s.setResultAndFlag x (s.V x - s.V y) (greaterFlag (s.V x) (s.V y)))

/-- SHR Vx (R158): `y` is encoded and not read. -/
def execShr (x _y : Reg) (s : State) : Host.Outcome State Fault Refusal :=
  .next (s.setResultAndFlag x (s.V x >>> 1) (lowBitFlag (s.V x)))

/-- SUBN Vx, Vy (R159). -/
def execSubnReg (x y : Reg) (s : State) : Host.Outcome State Fault Refusal :=
  .next (s.setResultAndFlag x (s.V y - s.V x) (greaterFlag (s.V y) (s.V x)))

/-- SHL Vx (R160): `y` is encoded and not read. -/
def execShl (x _y : Reg) (s : State) : Host.Outcome State Fault Refusal :=
  .next (s.setResultAndFlag x (s.V x <<< 1) (highBitFlag (s.V x)))

/-- RND Vx, byte (R161): the drawn byte AND KK. -/
def execRnd (x : Reg) (kk : Byte) (s : State) : Host.Outcome State Fault Refusal :=
  .next (s.noteDraw.setV x (s.drawnByte &&& kk)).advance

end Sys2Proof.Machine
end

