-- ==== Sys2Proof/Machine/Control.lean ====
section
/-! DEFINITION. Control flow (42_control_flow.md). -/

namespace Sys2Proof.Machine

/-- RET (R120): StackUnderflow when sp = 0, raised before any write; else the popped address plus 2. -/
def execRet (s : State) : Host.Outcome State Fault Refusal :=
  match s.pop with
  | some (w, t) => .next (t.setPc w).advance
  | none => .next (s.takeFault .stackUnderflow)

/-- JP addr (R121). -/
def execJp (nnn : BitVec 12) (s : State) : Host.Outcome State Fault Refusal :=
  .next (s.setPc (addrOperand nnn))

/-- CALL addr (R122): pushes the CALL's own address; StackOverflow when sp = 16, raised before any write. -/
def execCall (nnn : BitVec 12) (s : State) : Host.Outcome State Fault Refusal :=
  match s.push s.pc with
  | some t => .next (t.setPc (addrOperand nnn))
  | none => .next (s.takeFault .stackOverflow)

/-- SE Vx, byte (R123). -/
def execSeByte (x : Reg) (kk : Byte) (s : State) : Host.Outcome State Fault Refusal :=
  .next (s.skipIf (decide (s.V x = kk)))

/-- SNE Vx, byte (R124). -/
def execSneByte (x : Reg) (kk : Byte) (s : State) : Host.Outcome State Fault Refusal :=
  .next (s.skipIf (decide (s.V x ≠ kk)))

/-- SE Vx, Vy (R125). -/
def execSeReg (x y : Reg) (s : State) : Host.Outcome State Fault Refusal :=
  .next (s.skipIf (decide (s.V x = s.V y)))

/-- SNE Vx, Vy (R126). -/
def execSneReg (x y : Reg) (s : State) : Host.Outcome State Fault Refusal :=
  .next (s.skipIf (decide (s.V x ≠ s.V y)))

/-- JP V0, addr (R127): `trunc_16(zext_16(NNN) + V[0])`. -/
def execJpV0 (nnn : BitVec 12) (s : State) : Host.Outcome State Fault Refusal :=
  .next (s.setPc (addrOperand nnn + s.wideV v0))

end Sys2Proof.Machine
end

