-- ==== Sys2Proof/Machine/Display.lean ====
section
/-! DEFINITION. The display instructions (41_display.md). -/

namespace Sys2Proof.Machine

/-- CLS (R100). -/
def execCls (s : State) : Host.Outcome State Fault Refusal :=
  .next (s.setFb .blank).advance

/-- DRW Vx, Vy, n (R101 to R104): V[X], V[Y] and I are read first, VF is written after the pixels (D29). -/
def execDrw (x y : Reg) (n : Nat) (s : State) : Host.Outcome State Fault Refusal :=
  let a := s.drawSprite (s.V x).toNat (s.V y).toNat s.i.toNat n
  .next ((s.setFb a.fb).setV vF (flagByte a.collision)).advance

end Sys2Proof.Machine
end

