-- ==== Sys2Proof/Machine/Index.lean ====
section
/-! DEFINITION. The index register and memory instructions (45_index_memory.md). -/

namespace Sys2Proof.Machine

/-- LD I, addr (R200). -/
def execLdI (nnn : BitVec 12) (s : State) : Host.Outcome State Fault Refusal :=
  .next (s.setI (addrOperand nnn)).advance

/-- ADD I, Vx (R201): the flag from the exact sum, I wrapped at 16 bits, VF last. -/
def execAddI (x : Reg) (s : State) : Host.Outcome State Fault Refusal :=
  .next ((s.setI (s.i + s.wideV x)).setV vF (indexFlag s.i (s.V x))).advance

/-- LD F, Vx (R202). -/
def execLdF (x : Reg) (s : State) : Host.Outcome State Fault Refusal :=
  .next (s.setI (s.fontAddress x)).advance

/-- LD B, Vx (R203): three digits at I, I+1, I+2; I is not changed. -/
def execLdB (x : Reg) (s : State) : Host.Outcome State Fault Refusal :=
  .next ({ s with mem := s.mem.writeList s.i.toNat (bcdDigits (s.V x)) }).advance

/-- LD [I], Vx (R204): V[0] to V[X] at I to I+X, then I + X + 1. -/
def execStoreRegs (x : Reg) (s : State) : Host.Outcome State Fault Refusal :=
  .next (({ s with mem := s.mem.writeList s.i.toNat (s.valuesUpTo x) }).setI (s.indexPast x)).advance

/-- LD Vx, [I] (R205): V[0] to V[X] from I to I+X, then I + X + 1. -/
def execLoadRegs (x : Reg) (s : State) : Host.Outcome State Fault Refusal :=
  .next (((regsUpTo x).foldl (fun t r => t.setV r (s.memRead (s.i.toNat + r.val))) s).setI (s.indexPast x)).advance

end Sys2Proof.Machine
end

