-- ==== Sys2Proof/Machine/Keys.lean ====
section
/-! DEFINITION. The keypad and timer instructions (44_keys_timers.md). -/

namespace Sys2Proof.Machine

/-- SKP Vx (R180): KeyIndexRange when V[X] > 0xF, raised before any write. -/
def execSkp (x : Reg) (s : State) : Host.Outcome State Fault Refusal :=
  match s.keyOperand x with
  | some k => .next (s.skipIf (s.keyDown k))
  | none => .next (s.takeFault .keyIndexRange)

/-- SKNP Vx (R181). -/
def execSknp (x : Reg) (s : State) : Host.Outcome State Fault Refusal :=
  match s.keyOperand x with
  | some k => .next (s.skipIf (!s.keyDown k))
  | none => .next (s.takeFault .keyIndexRange)

/-- LD Vx, DT (R182): DT as the previous cycle left it. -/
def execLdVxDt (x : Reg) (s : State) : Host.Outcome State Fault Refusal :=
  .next (s.setV x s.dt).advance

/-- LD Vx, K (R183): the lowest key down; with none down nothing changes, pc included, and
`stalled <- 1` is the output `stalledBy` of the cycle (Machine/Cycle.lean). -/
def execLdVxK (x : Reg) (s : State) : Host.Outcome State Fault Refusal :=
  match s.lowestKey with
  | some k => .next (s.setV x (BitVec.ofNat 8 k.val)).advance
  | none => .next s

/-- LD DT, Vx (R184). -/
def execLdDtVx (x : Reg) (s : State) : Host.Outcome State Fault Refusal :=
  .next (s.setDt (s.V x)).advance

/-- LD ST, Vx (R185). -/
def execLdStVx (x : Reg) (s : State) : Host.Outcome State Fault Refusal :=
  .next (s.setSt (s.V x)).advance

end Sys2Proof.Machine
end

