-- ==== Sys2Proof/Machine/Cycle.lean ====
section
/-! DEFINITION. One cycle, its state and its outputs (30_encoding.md R81, R84; 60_exceptions.md R235 to R237, R243, R244,
R255).  The outputs are no state (10_state.md R36): they stand beside it in what a cycle answers. -/

namespace Sys2Proof.Machine

/-- The three outputs of one cycle (10_state.md R36), valid only for the cycle that produced them. -/
structure Outputs where
  /-- `beep` (60_exceptions.md R244). -/
  beep : Bool
  /-- `unknown_opcode`: the word and the pc it was fetched from (R237). -/
  unknownOpcode : Option (Word × Word)
  /-- `stalled` (R255). -/
  stalled : Bool
  deriving DecidableEq, Repr

/-- "Each output is false unless a rule sets it" (30_encoding.md R81). -/
def Outputs.quiet : Outputs := ⟨false, Option.none, false⟩

/-- `if t > 0: t <- t - 1` (R243). -/
def tickDown (t : Byte) : Byte := if t = 0 then 0 else t - 1

namespace State

/-- What the timer tick leaves of the state (R243): both timers count down. -/
def timerTick (s : State) : State := { s with dt := tickDown s.dt, st := tickDown s.st }

/-- The beep of a tick (R243): `beep <- (if ST = 1 then 1 else 0)`, from ST before it counts down. -/
def tickBeeps (s : State) : Bool := decide (s.st = 1)

/-- A running core's cycle begins.  A cycle has now run since reset (assumption 3). -/
def beginCycle (s : State) : State := { s with started := true }

/-- A cycle ends: the timer tick, unless the instruction raised a fault (R81, R235). -/
def endCycle (s : State) : State := if s.halted then s else s.timerTick

/-- The state in which the core fetches again: a halted core fetches nothing, so its fault status is cleared. -/
def unhalt (s : State) : State :=
  if s.halted then { s with faultCause := .none, faultPc := 0, faultWord := 0 } else s

end State

/-- An Unknown word (R84): pc + 2; its report is the output `unknownReport`. -/
def execUnknown (s : State) : Host.Outcome State Fault Refusal := .next s.advance

/-- `Execute` of R81: the decoded instruction's meaning, or R84 for Unknown. -/
def execDecoded (d : Decoded) (s : State) : Host.Outcome State Fault Refusal :=
  match d with
  | .instr i => exec i s
  | .unknown _ => execUnknown s

/-- `report UnknownOpcode(w, pc)` (R84, R237): the word and the pc it was fetched from. -/
def unknownReport (d : Decoded) (s : State) : Option (Word × Word) :=
  match d with
  | .instr _ => Option.none
  | .unknown _ => some (s.fetchWord, s.pc)

/-- The one instruction that can stall: LD Vx, K (60_exceptions.md R254). -/
def waitsForKey : Instr → Bool
  | .ldVxK _ => true
  | .cls | .ret | .jp _ | .call _ | .seByte _ _ | .sneByte _ _ | .seReg _ _ | .ldByte _ _ | .addByte _ _ | .ldReg _ _
  | .orReg _ _ | .andReg _ _ | .xorReg _ _ | .addReg _ _ | .subReg _ _ | .shr _ _ | .subnReg _ _ | .shl _ _
  | .sneReg _ _ | .ldI _ | .jpV0 _ | .rnd _ _ | .drw _ _ _ | .skp _ | .sknp _ | .ldVxDt _ | .ldDtVx _ | .ldStVx _
  | .addI _ | .ldF _ | .ldB _ | .storeRegs _ | .loadRegs _ => false

/-- `stalled` (R255, `stalled <- 1` of 44_keys_timers.md R183): LD Vx, K with no key down. -/
def stalledBy (d : Decoded) (s : State) : Bool :=
  match d with
  | .instr i => waitsForKey i && s.lowestKey.isNone
  | .unknown _ => false

/-- The outputs of a running core's cycle that began in `s`, decoded `d` and executed to `t`: all false after a fault
(R81, R235), else the tick's beep, the report and the stall. -/
def outputsOf (d : Decoded) (s t : State) : Outputs :=
  if t.halted then .quiet else ⟨t.tickBeeps, unknownReport d s, stalledBy d s⟩

/-- The end of the cycle, after whatever the word's execution answered. -/
def finishCycle (d : Decoded) (s : State) :
    Host.Outcome State Fault Refusal → Host.Outcome (State × Outputs) Fault Refusal
  | .next t => .next (t.endCycle, outputsOf d s t)
  | .fault r => .fault r
  | .refused r => .refused r

/-- `Cycle(state)` of R81, the new state and the outputs: a halted core's cycle changes nothing and outputs nothing
(R236); a running core fetches at pc, decodes, executes, and ticks its timers unless a fault was raised.  The cycle's
random byte is a free value that RND draws (assumption 2). -/
def cycle (s : State) : Host.Outcome (State × Outputs) Fault Refusal :=
  if s.halted then .next (s, .quiet)
  else
    finishCycle (decodeWord s.fetchWord) s (execDecoded (decodeWord s.fetchWord) s.beginCycle)

/-- The state of what a cycle answers. -/
def stateOf : Host.Outcome (State × Outputs) Fault Refusal → Host.Outcome State Fault Refusal
  | .next p => .next p.1
  | .fault r => .fault r
  | .refused r => .refused r

end Sys2Proof.Machine
end

