-- ==== Sys2Proof/Machine/Step.lean ====
section
/-! DEFINITION. One cycle (30_encoding.md R81), and where the next instruction is fetched from. -/

namespace Sys2Proof.Machine

/-- One cycle's new state.  The host's interface gives a step no place for the cycle's outputs: those are `cycle`'s, which
`interact` answers (assumption 1). -/
def step (s : State) : Host.Outcome State Fault Refusal := stateOf (cycle s)

/-- `s` with the table word `w` stored where `step` fetches next, at pc and pc + 1.  It stands for a program loaded by
the host (assumption 10). -/
def State.withFetchWord (s : State) (nbits w : Nat) : State := s.unhalt.putFetchWord (tableWord nbits w)

end Sys2Proof.Machine
end

