-- ==== Sys2Proof/Machine/HostOps.lean ====
section
/-! DEFINITION. What the host may do to the core and what the core gives back (60_exceptions.md R250): reset (R270), the
loader (70_reset_and_hazards.md R273), the keypad (R247), the framebuffer (R248), the fault status (R34), the cycle. -/

namespace Sys2Proof.Machine

/-- One interaction; each takes place between cycles and is atomic (R251). -/
inductive Interaction where
  /-- Reset, at any time (R270, D32). -/
  | reset
  /-- Load a program image (R273). -/
  | load (image : List Byte)
  /-- Write the keypad, all 16 entries at once (R247). -/
  | setKeypad (keys : Vector Bool 16)
  /-- Run one cycle (R81). -/
  | cycle
  /-- Read the grid and the dirty flag (R248). -/
  | readFramebuffer
  /-- `dirty <- 0` (R248). -/
  | clearDirty
  /-- Read the fault status (R34). -/
  | readFault
  deriving DecidableEq, Repr

/-- What the host gets back (R250's last column). -/
inductive Reply where
  /-- Nothing. -/
  | nothing
  /-- Load: success. -/
  | loaded
  /-- Load: LoadTooLarge (R273). -/
  | loadTooLarge
  /-- Load: refused because a cycle has run since reset (R273, D23).  The name is the model's: assumption 4. -/
  | loadTooLate
  /-- Cycle: the outputs of this cycle. -/
  | outputs (o : Outputs)
  /-- ReadFramebuffer: the grid and the dirty flag. -/
  | framebuffer (fb : Framebuffer) (dirty : Bool)
  /-- ReadFault: cause, pc, word. -/
  | faultStatus (cause : FaultCause) (pc word : Word)
  deriving DecidableEq, Repr

namespace State

/-- Reset (R270): every element of the spec's state to its reset value.  The count of draws goes on, so that the bytes
drawn after a reset are not those drawn before it (assumption 2). -/
def hostReset (s : State) : State := { State.reset with draws := s.draws }

/-- The loader's copy (R273): `M[0x200 + i] <- bytes[i]`. -/
def putImage (s : State) (image : List Byte) : State :=
  { s with mem := s.mem.writeList Config.progBase image }

/-- Load (R273): refused with no change if too large, or once a cycle has run; else the copy. -/
def hostLoad (s : State) (image : List Byte) : State × Reply :=
  if image.length > Config.progMaxLen then (s, .loadTooLarge)
  else if s.started then (s, .loadTooLate)
  else (s.putImage image, .loaded)

/-- SetKeypad (R247). -/
def setKeypad (s : State) (keys : Vector Bool 16) : State := { s with key := keys }

/-- ClearDirty (R248). -/
def clearDirty (s : State) : State := { s with dirty := false }

end State

/-- One interaction of the host: the state after it and the reply. -/
def interact (r : Interaction) (s : State) : Host.Outcome (State × Reply) Fault Refusal :=
  match r with
  | .reset => .next (s.hostReset, .nothing)
  | .load image => .next (s.hostLoad image)
  | .setKeypad keys => .next (s.setKeypad keys, .nothing)
  | .cycle =>
    match cycle s with
    | .next (t, o) => .next (t, .outputs o)
    | .fault e => .fault e
    | .refused e => .refused e
  | .readFramebuffer => .next (s, .framebuffer s.fb s.dirty)
  | .clearDirty => .next (s.clearDirty, .nothing)
  | .readFault => .next (s, .faultStatus s.faultCause s.faultPc s.faultWord)

end Sys2Proof.Machine
end

