-- ==== Sys2Proof/Safety.lean ====
section
/-! DEFINITION. The terms claims use: what an instruction may change (frames), the invariant of the machine, and what
counts as a safe run. -/

namespace Sys2Proof

/-- The general registers an instruction may write (the table of 10_state.md R22). -/
def Instr.writes : Instr → List Reg
  | .ldByte x _ | .rnd x _ | .addByte x _ | .ldReg x _ | .orReg x _ | .andReg x _ | .xorReg x _ | .ldVxDt x
  | .ldVxK x => [x]
  | .addReg x _ | .subReg x _ | .subnReg x _ | .shr x _ | .shl x _ => [x, vF]
  | .drw _ _ _ | .addI _ => [vF]
  | .loadRegs x => (List.finRange 16).filter (fun r => decide (r ≤ x))
  | .seByte _ _ | .sneByte _ _ | .seReg _ _ | .sneReg _ _ | .skp _ | .sknp _ | .jpV0 _ | .ldDtVx _ | .ldStVx _ | .ldF _
  | .ldB _ | .storeRegs _ | .cls | .ret | .jp _ | .call _ | .ldI _ => []

/-- The instructions that assign pc: JP, CALL, RET and JP V0 (30_encoding.md R82). -/
def Instr.isBranch : Instr → Bool
  | .jp _ | .call _ | .ret | .jpV0 _ => true
  | .cls | .seByte _ _ | .sneByte _ _ | .seReg _ _ | .ldByte _ _ | .addByte _ _ | .ldReg _ _
  | .orReg _ _ | .andReg _ _ | .xorReg _ _ | .addReg _ _ | .subReg _ _ | .shr _ _ | .subnReg _ _ | .shl _ _
  | .sneReg _ _ | .ldI _ | .rnd _ _ | .drw _ _ _ | .skp _ | .sknp _ | .ldVxDt _ | .ldVxK _ | .ldDtVx _ | .ldStVx _
  | .addI _ | .ldF _ | .ldB _ | .storeRegs _ | .loadRegs _ => false

/-- The skips (00_scope.md R12). -/
def Instr.isSkip : Instr → Bool
  | .seByte _ _ | .sneByte _ _ | .seReg _ _ | .sneReg _ _ | .skp _ | .sknp _ => true
  | .cls | .ret | .jp _ | .call _ | .ldByte _ _ | .addByte _ _ | .ldReg _ _
  | .orReg _ _ | .andReg _ _ | .xorReg _ _ | .addReg _ _ | .subReg _ _ | .shr _ _ | .subnReg _ _ | .shl _ _
  | .ldI _ | .jpV0 _ | .rnd _ _ | .drw _ _ _ | .ldVxDt _ | .ldVxK _ | .ldDtVx _ | .ldStVx _
  | .addI _ | .ldF _ | .ldB _ | .storeRegs _ | .loadRegs _ => false

end Sys2Proof

namespace Sys2Proof.Machine

/-- What an instruction may change besides pc, which each claim gives on its own. -/
structure Changes where
  /-- General registers. -/
  regs : List Reg := []
  /-- The index register. -/
  idx : Bool := false
  /-- The stack slots and sp. -/
  stack : Bool := false
  /-- The delay timer. -/
  dt : Bool := false
  /-- The sound timer. -/
  st : Bool := false
  /-- The framebuffer and its dirty flag. -/
  screen : Bool := false
  /-- Memory bytes, by address below 4096. -/
  bytes : List Nat := []
  /-- The count of drawn random bytes. -/
  draws : Bool := false

/-- From `s` to `t` everything but pc and what `c` lists is unchanged: every other general register, I, the stack, the
timers, the keypad, the framebuffer, the dirty flag, every byte of memory, the fault status, and the model's own
fields. -/
def OnlyChanges (c : Changes) (s t : State) : Prop :=
  (∀ r : Reg, r ∉ c.regs → t.V r = s.V r) ∧
  (c.idx = false → t.i = s.i) ∧
  (c.stack = false → t.stack = s.stack ∧ t.sp = s.sp) ∧
  (c.dt = false → t.dt = s.dt) ∧
  (c.st = false → t.st = s.st) ∧
  t.key = s.key ∧
  (c.screen = false → t.fb = s.fb ∧ t.dirty = s.dirty) ∧
  (∀ a : Nat, a % 4096 ∉ c.bytes → t.memRead a = s.memRead a) ∧
  (t.faultCause = s.faultCause ∧ t.faultPc = s.faultPc ∧ t.faultWord = s.faultWord) ∧
  (c.draws = false → t.draws = s.draws) ∧
  t.started = s.started

/-- The state an instruction that raises a fault leaves (60_exceptions.md R235): the fault status written, everything
else as it was. -/
def faultedFrom (s : State) (cause : FaultCause) : State :=
  { s with faultCause := cause, faultPc := s.pc, faultWord := s.fetchWord }

/-- The word at pc is an instruction that raises the fault the status names (60_exceptions.md R231). -/
def FaultJustified (s : State) : Prop :=
  match s.faultCause with
  | .none => True
  | .stackOverflow => s.sp = 16 ∧ ∃ nnn, decodeWord s.fetchWord = .instr (.call nnn)
  | .stackUnderflow => s.sp = 0 ∧ decodeWord s.fetchWord = .instr .ret
  | .keyIndexRange =>
    ∃ x, (s.V x).toNat > 0xF ∧ (decodeWord s.fetchWord = .instr (.skp x) ∨ decodeWord s.fetchWord = .instr (.sknp x))

/-- The invariant of the machine. -/
structure Inv (s : State) : Prop where
  /-- Memory is in its canonical form. -/
  memory : s.mem.wf = true
  /-- Without a fault the fault status reads as at reset (R34: only a fault writes it, only reset clears it). -/
  noFault : s.faultCause = .none → s.faultPc = 0 ∧ s.faultWord = 0
  /-- A halted core still stands at the faulting instruction (R235, R236), and a cycle has run. -/
  faulted : s.faultCause ≠ .none →
    s.faultPc = s.pc ∧ s.faultWord = s.fetchWord ∧ s.started = true
  /-- The recorded fault is one that the instruction at pc raises in this very state (R231, R235). -/
  justified : FaultJustified s
  /-- Before the first cycle only the loader and the keypad have acted (R40): all else is as reset leaves it. -/
  fresh : s.started = false → { s with mem := [], key := State.reset.key, draws := 0 } = State.reset
  /-- Before the first cycle every byte below 0x200 is as reset leaves it: the font and zeros (R273). -/
  loaderStaysHigh : s.started = false → ∀ a, a < 0x200 → s.memRead a = State.reset.memRead a

/-- The words matching a pattern under a mask are exactly those that decode to `f` of the word (30_encoding.md R75). -/
def Encodes (pattern mask : Word) (f : Word → Instr) : Prop :=
  ∀ w : Word, w &&& mask = pattern ↔ decodeWord w = .instr (f w)

/-- Cell `k` is one that a sprite of `n` rows at column V[x], row V[y], read from I, toggles (41_display.md R101, R103):
some row `r` and column `c` of the sprite fall on it, wrapped per axis, and bit `7 - c` of the row's byte is 1. -/
def SpritePixel (s : State) (x y : Reg) (n : Nat) (k : Fin 2048) : Prop :=
  ∃ r c : Nat, r < n ∧ c < 8 ∧
    k.val = ((s.V y).toNat + r) % 32 * 64 + ((s.V x).toNat + c) % 64 ∧
    (s.memRead (s.i.toNat + r)).getLsbD (7 - c) = true

/-- `k` cycles from a state (`Host.Core.run` of this machine: Laws/Cycle.lean). -/
def runCycles : Nat → State → Host.Outcome State Fault Refusal
  | 0, s => .next s
  | k + 1, s =>
    match step s with
    | .next t => runCycles k t
    | .fault r => .fault r
    | .refused r => .refused r

/-- `Steps P k s t`: `k` cycles lead from `s` to `t`, each begun in a state that meets `P`. -/
def Steps (P : State → Prop) : Nat → State → State → Prop
  | 0, s, t => t = s
  | k + 1, s, t => P s ∧ ∃ u, step s = .next u ∧ Steps P k u t

/-- The end of a run (60_exceptions.md R256): a core that is not halted stands at a self-jump, the word `1NNN` at address
NNN.  The core does not define an end and does not stop here: it runs the jump again in every later cycle.  R256 leaves
the predicate to the model; this one is R256's own example.  DESIGN CHOICE, assumption 13. -/
def endOfRun (s : State) : Bool :=
  !s.halted && decide (s.pc.toNat < 4096) && decide (decodeWord s.fetchWord = .instr (.jp (s.pc.setWidth 12)))

/-- `k` cycles run from `s` with no fault and no Unknown word: the premise 92_eei_decisions.md D8 and D11 ask a claim
about a program to take. -/
def safeRun : Nat → State → Bool
  | 0, s => !s.halted
  | k + 1, s =>
    match cycle s with
    | .next (t, o) => !s.halted && o.unknownOpcode.isNone && safeRun k t
    | .fault _ => false
    | .refused _ => false

end Sys2Proof.Machine
end

