-- ==== Sys2Proof/Certificates/Slice0/Obligations.lean ====
section
/-! DEFINITION. The statements for the provers.  Each says which rule of spec/ it formalises; a clause that is the model's
own choice names its row of the assumption log. -/

open Sys2Proof Sys2Proof.Machine

/-! ## Decoding and encoding -/

/-- 30_encoding.md R71: each field is its bits of the word. -/
def Obligations.FieldsAreTheirBits : Prop :=
  ∀ w : Word,
    fieldF w = (w.extractLsb' 12 4).toNat ∧ (fieldX w).val = (w.extractLsb' 8 4).toNat ∧
    (fieldY w).val = (w.extractLsb' 4 4).toNat ∧ fieldN w = (w.extractLsb' 0 4).toNat ∧
    fieldLow w = (w.extractLsb' 0 8).toNat ∧ fieldKK w = w.extractLsb' 0 8 ∧ fieldNNN w = w.extractLsb' 0 12

/-- The decoder follows the opcode map of 30_encoding.md (its rows in `Instr.row`): a decoded word matches its
instruction's row, and a word that matches a row decodes to an instruction of that row. -/
def Obligations.DecoderFollowsOpcodeMap : Prop :=
  (∀ (w : Word) (i : Instr), decodeWord w = .instr i → w &&& i.row.mask = i.row.pattern) ∧
  (∀ (w : Word) (i : Instr), w &&& i.row.mask = i.row.pattern → ∃ j, decodeWord w = .instr j ∧ j.row = i.row)

/-- The Unknown words are exactly the four groups of 30_encoding.md section 3. -/
def Obligations.UnknownWordsAreTheFourGroups : Prop :=
  ∀ w : Word, (∃ why, decodeWord w = .unknown why) ↔
    (fieldF w = 0x0 ∧ fieldLow w ∉ [0xE0, 0xEE]) ∨
    (fieldF w = 0x8 ∧ fieldN w ∈ [0x8, 0x9, 0xA, 0xB, 0xC, 0xD, 0xF]) ∨
    (fieldF w = 0xE ∧ fieldLow w ∉ [0x9E, 0xA1]) ∨
    (fieldF w = 0xF ∧ fieldLow w ∉ [0x07, 0x0A, 0x15, 0x18, 0x1E, 0x29, 0x33, 0x55, 0x65])

/-- Headline: decoding the encoding of any well-formed instruction gives it back, with every operand at every value. -/
def Obligations.DecodeOfEncodeIsTheInstruction : Prop :=
  ∀ i : Instr, i.WellFormed → decodeWord (encode i) = .instr i

/-- The other direction: what a word decodes to is well formed, and encodes to that word with its ignored bits 0
(30_encoding.md: X of family 0, N of 5XYN and 9XYN). -/
def Obligations.EncodeOfDecodeKeepsUsedBits : Prop :=
  ∀ (w : Word) (i : Instr), decodeWord w = .instr i → i.WellFormed ∧ encode i = w &&& i.usedBits

/-- Words written out from the encodings, and the decoder vectors of 95_test_vectors.md L2-0. -/
def Obligations.WrittenOutWordsDecode : Prop :=
  decodeWord 0b0000000011100000#16 = .instr .cls ∧
  decodeWord 0b0000000111100000#16 = .instr .cls ∧
  decodeWord 0b0001111111111111#16 = .instr (.jp 0xFFF#12) ∧
  decodeWord 0b0101000100100001#16 = .instr (.seReg 1 2) ∧
  decodeWord 0b1001101010110111#16 = .instr (.sneReg 10 11) ∧
  decodeWord 0b1000101010111110#16 = .instr (.shl 10 11) ∧
  decodeWord 0b1101000100100101#16 = .instr (.drw 1 2 5) ∧
  decodeWord 0b1110000110011110#16 = .instr (.skp 1) ∧
  decodeWord 0b1111000100001010#16 = .instr (.ldVxK 1) ∧
  decodeWord 0b1010001000000000#16 = .instr (.ldI 0x200#12) ∧
  decodeWord 0b0000000000000000#16 = .unknown .family0 ∧
  decodeWord 0b0000000100100011#16 = .unknown .family0 ∧
  decodeWord 0b1000101010111000#16 = .unknown .family8 ∧
  decodeWord 0b1110000110011111#16 = .unknown .familyE ∧
  decodeWord 0b1111111111111111#16 = .unknown .familyF

/-! ## The cycle -/

/-- 20_memory.md R53: the fetch is big-endian, the byte at pc the high one. -/
def Obligations.FetchIsBigEndian : Prop :=
  ∀ s : State, s.fetchWord =
    ((s.memRead s.pc.toNat).setWidth 16 <<< 8) ||| (s.memRead (s.pc + 1).toNat).setWidth 16

/-- A step of a running core runs the instruction its fetched word decodes to, in the state the cycle begins with (the
model's `started` set, assumption 3), then ticks the timers unless a fault was raised (a next
state by assumption 12). -/
def Obligations.StepRunsDecodedInstruction : Prop :=
  ∀ (s t : State) (i : Instr), s.faultCause = .none → decodeWord s.fetchWord = .instr i →
    exec i { s with started := true } = .next t →
    (t.faultCause = .none → step s = .next t.timerTick) ∧ (t.faultCause ≠ .none → step s = .next t)

/-- An Unknown word is reported with its pc and skipped, the timers tick, and nothing else changes (the spec's decision
D11; `started` is the model's, assumption 3). -/
def Obligations.UnknownWordReportedAndSkipped : Prop :=
  ∀ (s : State) (why : UnknownWord), s.faultCause = .none → decodeWord s.fetchWord = .unknown why →
    ∃ t o, cycle s = .next (t, o) ∧ step s = .next t ∧ t.pc = s.pc + 2 ∧
      o.unknownOpcode = some (s.fetchWord, s.pc) ∧ o.stalled = false ∧ (o.beep = true ↔ s.st = 1) ∧
      t.dt.toNat = s.dt.toNat - 1 ∧ t.st.toNat = s.st.toNat - 1 ∧
      OnlyChanges { dt := true, st := true } { s with started := true } t

/-- A halted core stays as it is through any number of cycles, with every output false (the spec's decision D14;
a next state by assumption 12). -/
def Obligations.HaltedCoreStaysAsItIs : Prop :=
  ∀ (k : Nat) (s : State), s.faultCause ≠ .none → runCycles k s = .next s ∧ cycle s = .next (s, .quiet)

/-- Every cycle returns a state and outputs, and any number of cycles returns a state: no step of this hardware stops
without one, whatever the state before (faults and halted cycles by assumption 12).  In particular the core does not
stop at the end of a run (60_exceptions.md section 6, the model's predicate: assumption 13): the self-jump repeats
through any number of cycles, only the timers running down (`started` is the model's, assumption 3). -/
def Obligations.EveryCycleReturnsAState : Prop :=
  (∀ s : State, ∃ t o, cycle s = .next (t, o) ∧ step s = .next t) ∧
  (∀ (k : Nat) (s : State), ∃ t, runCycles k s = .next t) ∧
  (∀ (k : Nat) (s : State), endOfRun s = true →
    ∃ t, runCycles k s = .next t ∧ endOfRun t = true ∧ t.pc = s.pc ∧
      t.dt.toNat = s.dt.toNat - k ∧ t.st.toNat = s.st.toNat - k ∧
      OnlyChanges { dt := true, st := true } { s with started := t.started } t)

/-- 60_exceptions.md R243: in every cycle that does not fault each timer, as the instruction left it, counts down by one
and stays at 0, and the beep is set exactly when the sound timer was 1 at the tick.  Only LD DT and LD ST write a timer. -/
def Obligations.TimersTickEveryCompletedCycle : Prop :=
  ∀ (s t : State) (o : Outputs), s.faultCause = .none → cycle s = .next (t, o) → t.faultCause = .none →
    ∃ d e : Byte,
      ((∀ x, decodeWord s.fetchWord ≠ .instr (.ldDtVx x)) → d = s.dt) ∧
      (∀ x, decodeWord s.fetchWord = .instr (.ldDtVx x) → d = s.V x) ∧
      ((∀ x, decodeWord s.fetchWord ≠ .instr (.ldStVx x)) → e = s.st) ∧
      (∀ x, decodeWord s.fetchWord = .instr (.ldStVx x) → e = s.V x) ∧
      t.dt.toNat = d.toNat - 1 ∧ t.st.toNat = e.toNat - 1 ∧ (o.beep = true ↔ e = 1)

/-- The stalled output is 1 exactly in a cycle that ran LD Vx, K with no key down (60_exceptions.md section 6; the spec's
decision D27). -/
def Obligations.StalledExactlyWhenWaiting : Prop :=
  ∀ (s t : State) (o : Outputs), cycle s = .next (t, o) →
    (o.stalled = true ↔
      s.faultCause = .none ∧ (∃ x, decodeWord s.fetchWord = .instr (.ldVxK x)) ∧ ∀ k, s.keyDown k = false)

/-- The unknown_opcode output carries the word and its pc exactly in a cycle that fetched an Unknown word (60_exceptions.md
section 1; the spec's decision D11). -/
def Obligations.UnknownOutputExactlyOnUnknownWords : Prop :=
  ∀ (s t : State) (o : Outputs) (w p : Word), cycle s = .next (t, o) →
    (o.unknownOpcode = some (w, p) ↔
      s.faultCause = .none ∧ w = s.fetchWord ∧ p = s.pc ∧ ∃ why, decodeWord s.fetchWord = .unknown why)

/-- The three faults, each raised by its instructions on its condition and by nothing else, with its code (the table of
60_exceptions.md section 1; the spec's decisions D8, D9, D13, D33; a fault is a next state by assumption 12). -/
def Obligations.FaultsRaisedExactlyOnTheirConditions : Prop :=
  FaultCause.stackOverflow.code = 1 ∧ FaultCause.stackUnderflow.code = 2 ∧ FaultCause.keyIndexRange.code = 3 ∧
  ∀ s t : State, s.faultCause = .none → step s = .next t →
    (t.faultCause = .stackOverflow ↔ s.sp = 16 ∧ ∃ nnn, decodeWord s.fetchWord = .instr (.call nnn)) ∧
    (t.faultCause = .stackUnderflow ↔ s.sp = 0 ∧ decodeWord s.fetchWord = .instr .ret) ∧
    (t.faultCause = .keyIndexRange ↔ ∃ x, (s.V x).toNat > 0xF ∧
      (decodeWord s.fetchWord = .instr (.skp x) ∨ decodeWord s.fetchWord = .instr (.sknp x)))

/-- A fault is precise and atomic: the faulting cycle leaves everything as it was but the fault status, ticks no timer and
outputs nothing (60_exceptions.md section 1; the spec's decision D14; a fault is a next state by assumption 12, `started`
is the model's, assumption 3). -/
def Obligations.FaultingCycleWritesOnlyTheFaultStatus : Prop :=
  ∀ (s t : State) (o : Outputs), s.faultCause = .none → cycle s = .next (t, o) → t.faultCause ≠ .none →
    t = { faultedFrom s t.faultCause with started := true } ∧ o = .quiet

/-! ## The invariant -/

/-- The reset state meets the invariant. -/
def Obligations.ResetMeetsTheInvariant : Prop := Inv State.reset

/-- Headline: every step from a state that meets the invariant leads to one that meets it. -/
def Obligations.StepKeepsTheInvariant : Prop :=
  ∀ s t : State, Inv s → step s = .next t → Inv t

/-- Every interaction of the host keeps the invariant, the loader and reset among them. -/
def Obligations.HostKeepsTheInvariant : Prop :=
  ∀ (r : Interaction) (s t : State) (reply : Reply), Inv s → interact r s = .next (t, reply) → Inv t

/-! ## Rules of the whole machine -/

/-- 41_display.md R106: the framebuffer changes only by CLS, by DRW and by reset; the host reads it untransformed and can
clear the dirty flag, which changes nothing else. -/
def Obligations.FramebufferChangesOnlyByClsDrwReset : Prop :=
  (∀ (r : Interaction) (s t : State) (reply : Reply), interact r s = .next (t, reply) → t.fb ≠ s.fb →
    r = .reset ∨
    (r = .cycle ∧ (decodeWord s.fetchWord = .instr .cls ∨ ∃ x y n, decodeWord s.fetchWord = .instr (.drw x y n)))) ∧
  (∀ s : State, interact .readFramebuffer s = .next (s, .framebuffer s.fb s.dirty)) ∧
  (∀ s : State, interact .clearDirty s = .next ({ s with dirty := false }, .nothing))

/-- Who writes memory, the keypad and the call stack (the table of 20_memory.md section 4): memory only LD B, LD [I], the
loader and reset; the keypad only the host and reset; the stack only CALL and reset, its pointer only CALL, RET and
reset. -/
def Obligations.StoragesWrittenOnlyByTheirWriters : Prop :=
  ∀ (r : Interaction) (s t : State) (reply : Reply), interact r s = .next (t, reply) →
    ((∃ a, t.memRead a ≠ s.memRead a) → r = .reset ∨ (∃ image, r = .load image) ∨
      (r = .cycle ∧ ∃ x, decodeWord s.fetchWord = .instr (.ldB x) ∨ decodeWord s.fetchWord = .instr (.storeRegs x))) ∧
    (t.key ≠ s.key → r = .reset ∨ ∃ keys, r = .setKeypad keys) ∧
    (t.stack ≠ s.stack → r = .reset ∨ (r = .cycle ∧ ∃ nnn, decodeWord s.fetchWord = .instr (.call nnn))) ∧
    (t.sp ≠ s.sp → r = .reset ∨
      (r = .cycle ∧ (decodeWord s.fetchWord = .instr .ret ∨ ∃ nnn, decodeWord s.fetchWord = .instr (.call nnn))))

/-- No instruction reads the sound timer (44_keys_timers.md, last rule): a cycle from the same state with another ST leads
to the same state but for ST, with the same outputs but for the beep. -/
def Obligations.SoundTimerIsNeverRead : Prop :=
  ∀ (s t : State) (o : Outputs) (e : Byte), cycle s = .next (t, o) →
    ∃ u q, cycle { s with st := e } = .next (u, q) ∧
      { u with st := 0 } = { t with st := 0 } ∧ { q with beep := false } = { o with beep := false }

/-- The outputs are no state (10_state.md section 11): a step is a cycle without them, and the host gets them from the cycle
that produced them and from no other interaction. -/
def Obligations.OutputsAreGivenOnlyByTheirCycle : Prop :=
  (∀ s t : State, step s = .next t ↔ ∃ o, cycle s = .next (t, o)) ∧
  (∀ (r : Interaction) (s t : State) (o : Outputs),
    interact r s = .next (t, .outputs o) ↔ r = .cycle ∧ cycle s = .next (t, o))

/-- Only RND reads the random source (60_exceptions.md section 5): RND uses up one draw, and any other cycle neither uses
one nor depends on how many were used (the count is the model's, assumption 2). -/
def Obligations.OnlyRndDrawsRandomBytes : Prop :=
  ∀ (s t : State) (o : Outputs), cycle s = .next (t, o) →
    ((∃ x kk, s.faultCause = .none ∧ decodeWord s.fetchWord = .instr (.rnd x kk)) → t.draws = s.draws + 1) ∧
    ((∀ x kk, decodeWord s.fetchWord ≠ .instr (.rnd x kk)) →
      t.draws = s.draws ∧ ∀ d, cycle { s with draws := d } = .next ({ t with draws := d }, o))

/-- The pc policy (30_encoding.md section 5): an instruction that is no branch and raises no fault moves pc by 2, or by 4
if it is a skip, or leaves it in a stalled cycle. -/
def Obligations.PcMovesByTwoUnlessBranch : Prop :=
  ∀ (s t : State) (o : Outputs) (i : Instr), s.faultCause = .none → decodeWord s.fetchWord = .instr i →
    cycle s = .next (t, o) → t.faultCause = .none → i.isBranch = false →
    (o.stalled = false ∧ t.pc = s.pc + 2) ∨ (i.isSkip = true ∧ t.pc = s.pc + 4) ∨ (o.stalled = true ∧ t.pc = s.pc)

/-- A cycle changes no general register but those the table of 10_state.md section 1 gives its instruction; an Unknown
word, a fault and a halted core change none. -/
def Obligations.RegistersWrittenOnlyAsListed : Prop :=
  ∀ (s t : State) (r : Reg), step s = .next t → t.V r ≠ s.V r →
    ∃ i, decodeWord s.fetchWord = .instr i ∧ r ∈ i.writes

/-- I is written only by LD I, ADD I, LD F, LD [I] and LD Vx, [I] (10_state.md section 3). -/
def Obligations.IndexWrittenOnlyByFiveInstructions : Prop :=
  ∀ s t : State, step s = .next t → t.i ≠ s.i →
    (∃ nnn, decodeWord s.fetchWord = .instr (.ldI nnn)) ∨
    ∃ x, decodeWord s.fetchWord = .instr (.addI x) ∨ decodeWord s.fetchWord = .instr (.ldF x) ∨
      decodeWord s.fetchWord = .instr (.storeRegs x) ∨ decodeWord s.fetchWord = .instr (.loadRegs x)

/-! ## Display -/

/-- 41_display.md R100. -/
def Obligations.ClearScreenTurnsEveryCellOff : Prop :=
  Encodes 0x00E0#16 0xF0FF#16 (fun _ => .cls) ∧
  ∀ s : State, ∃ t, exec .cls s = .next t ∧
    (∀ k, t.fb.linear k = false) ∧ t.dirty = true ∧ t.pc = s.pc + 2 ∧ OnlyChanges { screen := true } s t

/-- DRW (41_display.md, its second rule, with the wrap of its fourth): every cell a sprite pixel falls on is toggled and no
other, VF is 1 exactly when one of those cells was on, the operands are those before the instruction.  The bit order is
assumption 8, the order of the VF write the spec's decision D29. -/
def Obligations.DrawSpriteTogglesItsPixels : Prop :=
  Encodes 0xD000#16 0xF000#16 (fun w => .drw (fieldX w) (fieldY w) (fieldN w)) ∧
  ∀ (x y : Reg) (n : Nat) (s : State), n < 16 → ∃ t, exec (.drw x y n) s = .next t ∧
    (∀ k, SpritePixel s x y n k → t.fb.linear k = !s.fb.linear k) ∧
    (∀ k, ¬ SpritePixel s x y n k → t.fb.linear k = s.fb.linear k) ∧
    ((∃ k, SpritePixel s x y n k ∧ s.fb.linear k = true) → t.V vF = 1) ∧
    ((¬ ∃ k, SpritePixel s x y n k ∧ s.fb.linear k = true) → t.V vF = 0) ∧
    t.dirty = true ∧ t.pc = s.pc + 2 ∧ OnlyChanges { regs := [vF], screen := true } s t

/-- Drawing twice restores the screen (41_display.md, sixth rule; the two draws have the same coordinates).  The second
draw's VF is 1 exactly when some sprite pixel fell on a cell that was off before the first draw; on an empty screen
that is when the sprite has a set bit.  The rule's own last words hold only there: assumption 11. -/
def Obligations.DrawingTwiceRestoresTheScreen : Prop :=
  ∀ (x y : Reg) (n : Nat) (s t u : State), n < 16 → exec (.drw x y n) s = .next t → t.V x = s.V x → t.V y = s.V y →
    exec (.drw x y n) t = .next u →
    u.fb = s.fb ∧ u.dirty = true ∧ u.pc = s.pc + 4 ∧ OnlyChanges { regs := [vF], screen := true } s u ∧
    (u.V vF = 1 ↔ ∃ k, SpritePixel s x y n k ∧ s.fb.linear k = false) ∧ (u.V vF = 1 ∨ u.V vF = 0) ∧
    ((∀ k, s.fb.linear k = false) → (u.V vF = 1 ↔ ∃ r, r < n ∧ s.memRead (s.i.toNat + r) ≠ 0))

/-- What the rule's text says of the second draw for every starting screen: its VF is 1 if and only if the sprite has a set
bit.  EXPECTED TO FAIL: a sprite whose every pixel falls on a cell that is already on turns them off in the first draw
and on in the second, which then reports no collision (assumption 11). -/
def Obligations.SecondDrawFlagsEverySetBit : Prop :=
  ∀ (x y : Reg) (n : Nat) (s t u : State), n < 16 → exec (.drw x y n) s = .next t → t.V x = s.V x → t.V y = s.V y →
    exec (.drw x y n) t = .next u →
    (u.V vF = 1 ↔ ∃ r, r < n ∧ s.memRead (s.i.toNat + r) ≠ 0)

/-! ## Control flow -/

/-- RET (42_control_flow.md section RET): pops into pc and adds 2.  Its last clause, what an empty stack leaves, is the
fault StackUnderflow of 60_exceptions.md section 1, the spec's decisions D9 and D14, as a next state by assumption 12. -/
def Obligations.ReturnPopsAndAddsTwo : Prop :=
  Encodes 0x00EE#16 0xF0FF#16 (fun _ => .ret) ∧
  (∀ (s : State) (h : 0 < s.sp.val), ∃ t, exec .ret s = .next t ∧
    t.pc = s.stack[s.sp.val - 1]'(by omega) + 2 ∧ t.sp.val = s.sp.val - 1 ∧ t.stack = s.stack ∧
    OnlyChanges { stack := true } s t) ∧
  (∀ s : State, s.sp = 0 → exec .ret s = .next (faultedFrom s .stackUnderflow))

/-- 42_control_flow.md R121. -/
def Obligations.JumpAssignsPc : Prop :=
  Encodes 0x1000#16 0xF000#16 (fun w => .jp (fieldNNN w)) ∧
  ∀ (nnn : BitVec 12) (s : State), ∃ t, exec (.jp nnn) s = .next t ∧ t.pc.toNat = nnn.toNat ∧ OnlyChanges {} s t

/-- CALL (42_control_flow.md section CALL): pushes its own address and jumps (the spec's decision D10).  Its last clause,
what a full stack leaves, is the fault StackOverflow of 60_exceptions.md section 1, the spec's decisions D8 and D14, as
a next state by assumption 12. -/
def Obligations.CallPushesItsOwnAddress : Prop :=
  Encodes 0x2000#16 0xF000#16 (fun w => .call (fieldNNN w)) ∧
  (∀ (nnn : BitVec 12) (s : State) (h : s.sp.val < 16), ∃ t, exec (.call nnn) s = .next t ∧
    t.pc.toNat = nnn.toNat ∧ t.sp.val = s.sp.val + 1 ∧ t.stack[s.sp.val] = s.pc ∧
    (∀ j : Fin 16, j.val ≠ s.sp.val → t.stack[j.val] = s.stack[j.val]) ∧ OnlyChanges { stack := true } s t) ∧
  (∀ (nnn : BitVec 12) (s : State), s.sp = 16 → exec (.call nnn) s = .next (faultedFrom s .stackOverflow))

/-- A return straight after a call comes back to the instruction after the call, with the stack pointer and the slots below
it as before. -/
def Obligations.CallThenReturnComesBack : Prop :=
  ∀ (nnn : BitVec 12) (s : State), s.sp.val < 16 →
    ∃ t u, exec (.call nnn) s = .next t ∧ exec .ret t = .next u ∧ u.pc = s.pc + 2 ∧ u.sp = s.sp ∧
      (∀ j : Fin 16, j.val < s.sp.val → u.stack[j.val] = s.stack[j.val]) ∧ OnlyChanges { stack := true } s u

/-- 42_control_flow.md R123 and R124. -/
def Obligations.SkipsCompareWithAByte : Prop :=
  Encodes 0x3000#16 0xF000#16 (fun w => .seByte (fieldX w) (fieldKK w)) ∧
  Encodes 0x4000#16 0xF000#16 (fun w => .sneByte (fieldX w) (fieldKK w)) ∧
  ∀ (x : Reg) (kk : Byte) (s : State),
    (∃ t, exec (.seByte x kk) s = .next t ∧
      t.pc = (if s.V x = kk then s.pc + 4 else s.pc + 2) ∧ OnlyChanges {} s t) ∧
    (∃ t, exec (.sneByte x kk) s = .next t ∧
      t.pc = (if s.V x = kk then s.pc + 2 else s.pc + 4) ∧ OnlyChanges {} s t)

/-- SE and SNE of two registers; the low nibble of the word is not examined (the spec's decision D2). -/
def Obligations.SkipsCompareTwoRegisters : Prop :=
  Encodes 0x5000#16 0xF000#16 (fun w => .seReg (fieldX w) (fieldY w)) ∧
  Encodes 0x9000#16 0xF000#16 (fun w => .sneReg (fieldX w) (fieldY w)) ∧
  ∀ (x y : Reg) (s : State),
    (∃ t, exec (.seReg x y) s = .next t ∧
      t.pc = (if s.V x = s.V y then s.pc + 4 else s.pc + 2) ∧ OnlyChanges {} s t) ∧
    (∃ t, exec (.sneReg x y) s = .next t ∧
      t.pc = (if s.V x = s.V y then s.pc + 2 else s.pc + 4) ∧ OnlyChanges {} s t)

/-- JP V0, addr: NNN plus V[0], which may pass 0xFFF; no other register is added (the spec's decision D6). -/
def Obligations.JumpAddsRegisterZero : Prop :=
  Encodes 0xB000#16 0xF000#16 (fun w => .jpV0 (fieldNNN w)) ∧
  ∀ (nnn : BitVec 12) (s : State), ∃ t, exec (.jpV0 nnn) s = .next t ∧
    t.pc.toNat = nnn.toNat + (s.V 0).toNat ∧ OnlyChanges {} s t

/-! ## ALU -/

/-- 43_alu.md R150 and R152. -/
def Obligations.LoadByteAndMove : Prop :=
  Encodes 0x6000#16 0xF000#16 (fun w => .ldByte (fieldX w) (fieldKK w)) ∧
  Encodes 0x8000#16 0xF00F#16 (fun w => .ldReg (fieldX w) (fieldY w)) ∧
  (∀ (x : Reg) (kk : Byte) (s : State), ∃ t, exec (.ldByte x kk) s = .next t ∧
    t.V x = kk ∧ t.pc = s.pc + 2 ∧ OnlyChanges { regs := [x] } s t) ∧
  (∀ (x y : Reg) (s : State), ∃ t, exec (.ldReg x y) s = .next t ∧
    t.V x = s.V y ∧ t.pc = s.pc + 2 ∧ OnlyChanges { regs := [x] } s t)

/-- 43_alu.md R151: the sum modulo 256, and no flag even on a carry. -/
def Obligations.AddByteWrapsWithoutFlag : Prop :=
  Encodes 0x7000#16 0xF000#16 (fun w => .addByte (fieldX w) (fieldKK w)) ∧
  ∀ (x : Reg) (kk : Byte) (s : State), ∃ t, exec (.addByte x kk) s = .next t ∧
    (t.V x).toNat = ((s.V x).toNat + kk.toNat) % 256 ∧ t.pc = s.pc + 2 ∧ OnlyChanges { regs := [x] } s t

/-- 43_alu.md R153, R154, R155: bit by bit, and VF is not reset. -/
def Obligations.LogicalOperationsBitByBit : Prop :=
  Encodes 0x8001#16 0xF00F#16 (fun w => .orReg (fieldX w) (fieldY w)) ∧
  Encodes 0x8002#16 0xF00F#16 (fun w => .andReg (fieldX w) (fieldY w)) ∧
  Encodes 0x8003#16 0xF00F#16 (fun w => .xorReg (fieldX w) (fieldY w)) ∧
  ∀ (x y : Reg) (s : State),
    (∃ t, exec (.orReg x y) s = .next t ∧
      (∀ b, (t.V x).getLsbD b = ((s.V x).getLsbD b || (s.V y).getLsbD b)) ∧ t.pc = s.pc + 2 ∧
      OnlyChanges { regs := [x] } s t) ∧
    (∃ t, exec (.andReg x y) s = .next t ∧
      (∀ b, (t.V x).getLsbD b = ((s.V x).getLsbD b && (s.V y).getLsbD b)) ∧ t.pc = s.pc + 2 ∧
      OnlyChanges { regs := [x] } s t) ∧
    (∃ t, exec (.xorReg x y) s = .next t ∧
      (∀ b, (t.V x).getLsbD b = ((s.V x).getLsbD b ^^ (s.V y).getLsbD b)) ∧ t.pc = s.pc + 2 ∧
      OnlyChanges { regs := [x] } s t)

/-- 43_alu.md R156: for every X other than F the sum modulo 256, Y = F included, and for every X and Y the flag. -/
def Obligations.AddRegisterSetsCarry : Prop :=
  Encodes 0x8004#16 0xF00F#16 (fun w => .addReg (fieldX w) (fieldY w)) ∧
  ∀ (x y : Reg) (s : State), ∃ t, exec (.addReg x y) s = .next t ∧
    (x ≠ vF → (t.V x).toNat = ((s.V x).toNat + (s.V y).toNat) % 256) ∧
    t.V vF = (if (s.V x).toNat + (s.V y).toNat > 255 then 1 else 0) ∧
    t.pc = s.pc + 2 ∧ OnlyChanges { regs := [x, vF] } s t

/-- 43_alu.md R157 and R159: the difference modulo 256, and the flag when the minuend is strictly greater. -/
def Obligations.SubtractSetsNotBorrow : Prop :=
  Encodes 0x8005#16 0xF00F#16 (fun w => .subReg (fieldX w) (fieldY w)) ∧
  Encodes 0x8007#16 0xF00F#16 (fun w => .subnReg (fieldX w) (fieldY w)) ∧
  ∀ (x y : Reg) (s : State),
    (∃ t, exec (.subReg x y) s = .next t ∧
      (x ≠ vF → ((t.V x).toNat : Int) = (((s.V x).toNat : Int) - (s.V y).toNat) % 256) ∧
      t.V vF = (if (s.V x).toNat > (s.V y).toNat then 1 else 0) ∧
      t.pc = s.pc + 2 ∧ OnlyChanges { regs := [x, vF] } s t) ∧
    (∃ t, exec (.subnReg x y) s = .next t ∧
      (x ≠ vF → ((t.V x).toNat : Int) = (((s.V y).toNat : Int) - (s.V x).toNat) % 256) ∧
      t.V vF = (if (s.V y).toNat > (s.V x).toNat then 1 else 0) ∧
      t.pc = s.pc + 2 ∧ OnlyChanges { regs := [x, vF] } s t)

/-- 43_alu.md R158 and R160: V[X] alone is shifted, by one bit, and the bit shifted out is VF. -/
def Obligations.ShiftsMoveOneBitIntoTheFlag : Prop :=
  Encodes 0x8006#16 0xF00F#16 (fun w => .shr (fieldX w) (fieldY w)) ∧
  Encodes 0x800E#16 0xF00F#16 (fun w => .shl (fieldX w) (fieldY w)) ∧
  ∀ (x y : Reg) (s : State),
    (∃ t, exec (.shr x y) s = .next t ∧
      (x ≠ vF → (t.V x).toNat = (s.V x).toNat / 2) ∧ (t.V vF).toNat = (s.V x).toNat % 2 ∧
      t.pc = s.pc + 2 ∧ OnlyChanges { regs := [x, vF] } s t) ∧
    (∃ t, exec (.shl x y) s = .next t ∧
      (x ≠ vF → (t.V x).toNat = 2 * (s.V x).toNat % 256) ∧ (t.V vF).toNat = (s.V x).toNat / 128 ∧
      t.pc = s.pc + 2 ∧ OnlyChanges { regs := [x, vF] } s t)

/-- RND (43_alu.md): the drawn byte AND KK, whatever byte is drawn; one draw is used (the free value and its count are
assumption 2). -/
def Obligations.RandomByteIsMasked : Prop :=
  Encodes 0xC000#16 0xF000#16 (fun w => .rnd (fieldX w) (fieldKK w)) ∧
  ∀ (x : Reg) (kk : Byte) (s : State), ∃ t, exec (.rnd x kk) s = .next t ∧
    t.V x = Config.rnd s.draws &&& kk ∧ t.draws = s.draws + 1 ∧ t.pc = s.pc + 2 ∧
    OnlyChanges { regs := [x], draws := true } s t

/-! ## Keys and timers -/

/-- SKP and SKNP test the key V[X] selects.  The last clause, what a V[X] beyond 0xF leaves, is the fault KeyIndexRange of
60_exceptions.md section 1, the spec's decisions D13 and D14, as a next state by assumption 12. -/
def Obligations.KeySkipsTestTheSelectedKey : Prop :=
  Encodes 0xE09E#16 0xF0FF#16 (fun w => .skp (fieldX w)) ∧
  Encodes 0xE0A1#16 0xF0FF#16 (fun w => .sknp (fieldX w)) ∧
  (∀ (x : Reg) (k : Fin 16) (s : State), (s.V x).toNat = k.val →
    (∃ t, exec (.skp x) s = .next t ∧
      t.pc = (if s.key[k.val] = true then s.pc + 4 else s.pc + 2) ∧ OnlyChanges {} s t) ∧
    (∃ t, exec (.sknp x) s = .next t ∧
      t.pc = (if s.key[k.val] = true then s.pc + 2 else s.pc + 4) ∧ OnlyChanges {} s t)) ∧
  (∀ (x : Reg) (s : State), (s.V x).toNat > 0xF →
    exec (.skp x) s = .next (faultedFrom s .keyIndexRange) ∧ exec (.sknp x) s = .next (faultedFrom s .keyIndexRange))

/-- 44_keys_timers.md R182, R184, R185: what each writes, and what the tick of the same cycle leaves. -/
def Obligations.TimerLoadsAndStores : Prop :=
  Encodes 0xF007#16 0xF0FF#16 (fun w => .ldVxDt (fieldX w)) ∧
  Encodes 0xF015#16 0xF0FF#16 (fun w => .ldDtVx (fieldX w)) ∧
  Encodes 0xF018#16 0xF0FF#16 (fun w => .ldStVx (fieldX w)) ∧
  (∀ (x : Reg) (s : State),
    (∃ t, exec (.ldVxDt x) s = .next t ∧ t.V x = s.dt ∧ t.pc = s.pc + 2 ∧ OnlyChanges { regs := [x] } s t) ∧
    (∃ t, exec (.ldDtVx x) s = .next t ∧ t.dt = s.V x ∧ t.pc = s.pc + 2 ∧ OnlyChanges { dt := true } s t) ∧
    (∃ t, exec (.ldStVx x) s = .next t ∧ t.st = s.V x ∧ t.pc = s.pc + 2 ∧ OnlyChanges { st := true } s t)) ∧
  (∀ (x : Reg) (s : State), s.faultCause = .none →
    (decodeWord s.fetchWord = .instr (.ldVxDt x) →
      ∃ t, step s = .next t ∧ t.V x = s.dt ∧ t.dt.toNat = s.dt.toNat - 1) ∧
    (decodeWord s.fetchWord = .instr (.ldDtVx x) → ∃ t, step s = .next t ∧ t.dt.toNat = (s.V x).toNat - 1) ∧
    (decodeWord s.fetchWord = .instr (.ldStVx x) →
      ∃ t o, cycle s = .next (t, o) ∧ t.st.toNat = (s.V x).toNat - 1 ∧ (o.beep = true ↔ s.V x = 1)))

/-- LD Vx, K (44_keys_timers.md): the lowest key down, or a cycle that changes nothing of the spec's state but the timers
and whose stalled output is set; the model's `started`, which every cycle of a running core sets, is assumption 3. -/
def Obligations.WaitForKeyTakesTheLowest : Prop :=
  Encodes 0xF00A#16 0xF0FF#16 (fun w => .ldVxK (fieldX w)) ∧
  (∀ (x : Reg) (k : Fin 16) (s : State), s.key[k.val] = true → (∀ j : Fin 16, j < k → s.key[j.val] = false) →
    ∃ t, exec (.ldVxK x) s = .next t ∧ (t.V x).toNat = k.val ∧ t.pc = s.pc + 2 ∧ OnlyChanges { regs := [x] } s t) ∧
  (∀ (x : Reg) (s : State), (∀ j : Fin 16, s.key[j.val] = false) → exec (.ldVxK x) s = .next s) ∧
  (∀ (x : Reg) (s : State), s.faultCause = .none → decodeWord s.fetchWord = .instr (.ldVxK x) →
    (∀ j : Fin 16, s.key[j.val] = false) →
    ∃ t o, cycle s = .next (t, o) ∧ o.stalled = true ∧ o.unknownOpcode = none ∧ t.pc = s.pc ∧
      t.dt.toNat = s.dt.toNat - 1 ∧ t.st.toNat = s.st.toNat - 1 ∧
      OnlyChanges { dt := true, st := true } { s with started := true } t)

/-- While LD Vx, K waits, any number of cycles leaves everything as it was but the timers, which count down, and each is
stalled (70_reset_and_hazards.md section 4; 60_exceptions.md section 4). -/
def Obligations.WaitingAgesOnlyTheTimers : Prop :=
  ∀ (k : Nat) (x : Reg) (s : State), s.faultCause = .none → decodeWord s.fetchWord = .instr (.ldVxK x) →
    (∀ j : Fin 16, s.key[j.val] = false) →
    ∃ t u o, runCycles k s = .next t ∧ cycle t = .next (u, o) ∧ o.stalled = true ∧ u.pc = s.pc ∧
      u.dt.toNat = s.dt.toNat - (k + 1) ∧ u.st.toNat = s.st.toNat - (k + 1) ∧
      OnlyChanges { dt := true, st := true } { s with started := true } u

/-- DT counts one per cycle, whatever the program, until it is written or a fault halts the core
(70_reset_and_hazards.md section 4). -/
def Obligations.DelayTimerReadsElapsedCycles : Prop :=
  ∀ (k : Nat) (s t : State),
    Steps (fun u => ∀ x, decodeWord u.fetchWord ≠ .instr (.ldDtVx x)) k s t → t.faultCause = .none →
    t.dt.toNat = s.dt.toNat - k

/-- The beep comes exactly once: of the cycles after ST holds n, with ST not written, the n-th beeps and no other
(60_exceptions.md section 4; the spec's decision D26). -/
def Obligations.BeepComesInTheLastCycleOfTheSoundTimer : Prop :=
  ∀ (k : Nat) (s t u : State) (o : Outputs),
    Steps (fun u => ∀ x, decodeWord u.fetchWord ≠ .instr (.ldStVx x)) k s t →
    (∀ x, decodeWord t.fetchWord ≠ .instr (.ldStVx x)) → cycle t = .next (u, o) → u.faultCause = .none →
    (o.beep = true ↔ s.st.toNat = k + 1)

/-! ## Index and memory -/

/-- 45_index_memory.md R200 and R202. -/
def Obligations.IndexLoads : Prop :=
  Encodes 0xA000#16 0xF000#16 (fun w => .ldI (fieldNNN w)) ∧
  Encodes 0xF029#16 0xF0FF#16 (fun w => .ldF (fieldX w)) ∧
  (∀ (nnn : BitVec 12) (s : State), ∃ t, exec (.ldI nnn) s = .next t ∧
    t.i.toNat = nnn.toNat ∧ t.pc = s.pc + 2 ∧ OnlyChanges { idx := true } s t) ∧
  (∀ (x : Reg) (s : State), ∃ t, exec (.ldF x) s = .next t ∧
    t.i.toNat = (s.V x).toNat * 5 ∧ t.pc = s.pc + 2 ∧ OnlyChanges { idx := true } s t)

/-- ADD I, Vx: the exact sum sets the flag beyond 0xFFF, I wraps at 16 bits, VF is written last (the spec's decisions D4 and
D7). -/
def Obligations.AddToIndexSetsTheFlag : Prop :=
  Encodes 0xF01E#16 0xF0FF#16 (fun w => .addI (fieldX w)) ∧
  ∀ (x : Reg) (s : State), ∃ t, exec (.addI x) s = .next t ∧
    t.i.toNat = (s.i.toNat + (s.V x).toNat) % 65536 ∧
    t.V vF = (if s.i.toNat + (s.V x).toNat > 0xFFF then 1 else 0) ∧
    t.pc = s.pc + 2 ∧ OnlyChanges { regs := [vF], idx := true } s t

/-- 45_index_memory.md R203, over memory in its canonical form (kept by every step: StepKeepsTheInvariant). -/
def Obligations.StoreBcdWritesThreeDigits : Prop :=
  Encodes 0xF033#16 0xF0FF#16 (fun w => .ldB (fieldX w)) ∧
  ∀ (x : Reg) (s : State), s.mem.wf = true → ∃ t, exec (.ldB x) s = .next t ∧
    (t.memRead s.i.toNat).toNat = (s.V x).toNat / 100 ∧
    (t.memRead (s.i.toNat + 1)).toNat = (s.V x).toNat / 10 % 10 ∧
    (t.memRead (s.i.toNat + 2)).toNat = (s.V x).toNat % 10 ∧
    t.pc = s.pc + 2 ∧
    OnlyChanges { bytes := (List.range 3).map (fun j => (s.i.toNat + j) % 4096) } s t

/-- 45_index_memory.md R204, over memory in its canonical form. -/
def Obligations.StoreRegistersWritesABlock : Prop :=
  Encodes 0xF055#16 0xF0FF#16 (fun w => .storeRegs (fieldX w)) ∧
  ∀ (x : Reg) (s : State), s.mem.wf = true → ∃ t, exec (.storeRegs x) s = .next t ∧
    (∀ r : Reg, r ≤ x → t.memRead (s.i.toNat + r.val) = s.V r) ∧
    t.i.toNat = (s.i.toNat + x.val + 1) % 65536 ∧ t.pc = s.pc + 2 ∧
    OnlyChanges { idx := true, bytes := (List.range (x.val + 1)).map (fun j => (s.i.toNat + j) % 4096) } s t

/-- 45_index_memory.md R205. -/
def Obligations.LoadRegistersReadsABlock : Prop :=
  Encodes 0xF065#16 0xF0FF#16 (fun w => .loadRegs (fieldX w)) ∧
  ∀ (x : Reg) (s : State), ∃ t, exec (.loadRegs x) s = .next t ∧
    (∀ r : Reg, r ≤ x → t.V r = s.memRead (s.i.toNat + r.val)) ∧
    t.i.toNat = (s.i.toNat + x.val + 1) % 65536 ∧ t.pc = s.pc + 2 ∧
    OnlyChanges { regs := (List.finRange 16).filter (fun r => decide (r ≤ x)), idx := true } s t

/-! ## Reset and the host -/

/-- Reset sets every element of the state (70_reset_and_hazards.md section 1; the spec's decisions D15, D16 and D32);
`started` is the model's (assumption 3), and the count of draws goes on (assumption 2). -/
def Obligations.ResetSetsEveryElement : Prop :=
  ∀ s : State, ∃ t, interact .reset s = .next (t, .nothing) ∧
    (∀ r, t.V r = 0) ∧ t.i = 0 ∧ t.pc = 0x200 ∧ (∀ j : Fin 16, t.stack[j.val] = 0) ∧ t.sp = 0 ∧ t.dt = 0 ∧ t.st = 0 ∧
    (∀ k, t.keyDown k = false) ∧ (∀ k, t.fb.linear k = false) ∧ t.dirty = false ∧
    (∀ a, 0x50 ≤ a → a < 4096 → t.memRead a = 0) ∧
    (List.range 80).map t.memRead = fontRom ∧
    t.faultCause = .none ∧ t.faultPc = 0 ∧ t.faultWord = 0 ∧
    t.started = false ∧ t.draws = s.draws

/-- The loader (70_reset_and_hazards.md section 2; the spec's decision D23): before the first cycle an image of at most
0xE00 bytes is copied to 0x200 and changes no other byte; a larger image, or a load after a cycle has run, is refused
with no change (the reply's name and a second load are assumption 4, `started` assumption 3). -/
def Obligations.LoaderCopiesOrRefuses : Prop :=
  ∀ (image : List Byte) (s : State), s.mem.wf = true →
    (image.length ≤ 0xE00 → s.started = false → ∃ t, interact (.load image) s = .next (t, .loaded) ∧
      (∀ (j : Nat) (h : j < image.length), t.memRead (0x200 + j) = image[j]) ∧
      t.pc = s.pc ∧ OnlyChanges { bytes := (List.range image.length).map (fun j => 0x200 + j) } s t) ∧
    (image.length > 0xE00 → interact (.load image) s = .next (s, .loadTooLarge)) ∧
    (image.length ≤ 0xE00 → s.started = true → interact (.load image) s = .next (s, .loadTooLate))

/-- The other interactions of 60_exceptions.md section 5 and its table: the keypad is overwritten whole, the dirty flag
cleared, the fault status and the framebuffer read, a cycle run and its outputs given; each changes nothing more. -/
def Obligations.HostInteractionsDoWhatTheTableSays : Prop :=
  ∀ s : State,
    (∀ keys, interact (.setKeypad keys) s = .next ({ s with key := keys }, .nothing)) ∧
    interact .clearDirty s = .next ({ s with dirty := false }, .nothing) ∧
    interact .readFramebuffer s = .next (s, .framebuffer s.fb s.dirty) ∧
    interact .readFault s = .next (s, .faultStatus s.faultCause s.faultPc s.faultWord) ∧
    (∀ t o, cycle s = .next (t, o) → interact .cycle s = .next (t, .outputs o))

/-! ## The outputs of a cycle -/

/-- How the events of one cycle go together and with the state it leaves (60_exceptions.md sections 1, 2 and 4): a beep
comes with ST reaching 0, a reported word is Unknown, pc has gone past it and the cycle was not stalled, and a cycle
that leaves a halted core outputs nothing. -/
def Obligations.CycleOutputsFitTheStateTheyComeWith : Prop :=
  ∀ (s t : State) (o : Outputs), cycle s = .next (t, o) →
    (o.beep = true → t.st = 0) ∧
    (∀ w p, o.unknownOpcode = some (w, p) →
      (∃ why, decodeWord w = .unknown why) ∧ t.pc = p + 2 ∧ o.stalled = false) ∧
    (t.faultCause ≠ .none → o = .quiet)
end

