-- ==== Sys2Proof/Laws/Decode.lean ====
section
/-! SUPPORT. The fields of a word, of a packed word and under the opcode map's masks (30_encoding.md R71, R75). -/

namespace Sys2Proof

/-! ## Fields as arithmetic -/

theorem fieldF_eq (w : Word) : fieldF w = w.toNat / 4096 := by
  have := w.isLt
  simp only [fieldF, field]; omega

theorem fieldLow_eq (w : Word) : fieldLow w = w.toNat % 256 := by simp [fieldLow, field]

theorem fieldN_eq (w : Word) : fieldN w = w.toNat % 16 := by simp [fieldN, field]

theorem fieldX_val (w : Word) : (fieldX w).val = w.toNat / 256 % 16 := by simp [fieldX, field, Fin.ofNat]

theorem fieldY_val (w : Word) : (fieldY w).val = w.toNat / 16 % 16 := by simp [fieldY, field, Fin.ofNat]

theorem fieldKK_toNat (w : Word) : (fieldKK w).toNat = w.toNat % 256 := by simp [fieldKK, field]

theorem fieldNNN_toNat (w : Word) : (fieldNNN w).toNat = w.toNat % 4096 := by simp [fieldNNN, field]

theorem fieldF_lt (w : Word) : fieldF w < 16 := by
  have := w.isLt
  rw [fieldF_eq]; omega

/-! ## Packed words -/

theorem packNNN_toNat {f : Nat} (hf : f < 16) (nnn : BitVec 12) : (packNNN f nnn).toNat = f * 4096 + nnn.toNat := by
  have := nnn.isLt
  simp only [packNNN, BitVec.toNat_ofNat]; omega

theorem packXKK_toNat {f kk : Nat} (hf : f < 16) (hk : kk < 256) (x : Reg) :
    (packXKK f x kk).toNat = f * 4096 + x.val * 256 + kk := by
  have := x.isLt
  simp only [packXKK, BitVec.toNat_ofNat]; omega

theorem packXYN_toNat {f n : Nat} (hf : f < 16) (hn : n < 16) (x y : Reg) :
    (packXYN f x y n).toNat = f * 4096 + x.val * 256 + y.val * 16 + n := by
  have := x.isLt
  have := y.isLt
  simp only [packXYN, BitVec.toNat_ofNat]; omega

/-! ## Two bytes and a word (20_memory.md R53) -/

theorem wordOfBytes_toNat (hi lo : Byte) : (wordOfBytes hi lo).toNat = hi.toNat * 256 + lo.toNat := by
  have := hi.isLt
  have := lo.isLt
  simp only [wordOfBytes, BitVec.toNat_ofNat]; omega

/-- Splitting a word into its bytes and joining them gives the word back. -/
@[simp] theorem wordOfBytes_split (w : Word) : wordOfBytes (highByte w) (lowByte w) = w := by
  have := w.isLt
  apply BitVec.eq_of_toNat_eq
  rw [wordOfBytes_toNat]
  simp only [highByte, lowByte, BitVec.toNat_ofNat]; omega

/-! ## The masks of the opcode map -/

theorem toNat_and_F000 (w : Word) : (w &&& 0xF000#16).toNat = w.toNat / 4096 * 4096 := by
  have h : w &&& 0xF000#16 = (w >>> 12) <<< 12 := by
    apply BitVec.eq_of_getLsbD_eq
    intro i hi
    interval_cases i <;> simp
  have := w.isLt
  rw [h]; simp [Nat.shiftRight_eq_div_pow, Nat.shiftLeft_eq]; omega

theorem toNat_and_F00F (w : Word) : (w &&& 0xF00F#16).toNat = w.toNat / 4096 * 4096 + w.toNat % 16 := by
  have h : w &&& 0xF00F#16 = ((w >>> 12) <<< 12) ||| ((w <<< 12) >>> 12) := by
    apply BitVec.eq_of_getLsbD_eq
    intro i hi
    interval_cases i <;> simp
  have h2 : (w >>> 12) <<< 12 &&& (w <<< 12) >>> 12 = 0 := by
    apply BitVec.eq_of_getLsbD_eq
    intro i hi
    interval_cases i <;> simp
  have := w.isLt
  rw [h, ← BitVec.add_eq_or_of_and_eq_zero _ _ h2]
  simp [Nat.shiftRight_eq_div_pow, Nat.shiftLeft_eq]; omega

theorem toNat_and_F0FF (w : Word) : (w &&& 0xF0FF#16).toNat = w.toNat / 4096 * 4096 + w.toNat % 256 := by
  have h : w &&& 0xF0FF#16 = ((w >>> 12) <<< 12) ||| ((w <<< 8) >>> 8) := by
    apply BitVec.eq_of_getLsbD_eq
    intro i hi
    interval_cases i <;> simp
  have h2 : (w >>> 12) <<< 12 &&& (w <<< 8) >>> 8 = 0 := by
    apply BitVec.eq_of_getLsbD_eq
    intro i hi
    interval_cases i <;> simp
  have := w.isLt
  rw [h, ← BitVec.add_eq_or_of_and_eq_zero _ _ h2]
  simp [Nat.shiftRight_eq_div_pow, Nat.shiftLeft_eq]; omega

theorem toNat_and_FFF0 (w : Word) : (w &&& 0xFFF0#16).toNat = w.toNat / 16 * 16 := by
  have h : w &&& 0xFFF0#16 = (w >>> 4) <<< 4 := by
    apply BitVec.eq_of_getLsbD_eq
    intro i hi
    interval_cases i <;> simp
  have := w.isLt
  rw [h]; simp [Nat.shiftRight_eq_div_pow, Nat.shiftLeft_eq]; omega

/-- A word is of a family exactly when its top nibble is that family. -/
theorem and_F000_eq_iff (w : Word) {p : Nat} (hp : p < 16) :
    w &&& 0xF000#16 = BitVec.ofNat 16 (p * 4096) ↔ fieldF w = p := by
  have := w.isLt
  rw [← BitVec.toNat_inj, toNat_and_F000, fieldF_eq, BitVec.toNat_ofNat]; omega

/-- A word of a row that examines the family and the low nibble. -/
theorem and_F00F_eq_iff (w : Word) {p n : Nat} (hp : p < 16) (hn : n < 16) :
    w &&& 0xF00F#16 = BitVec.ofNat 16 (p * 4096 + n) ↔ fieldF w = p ∧ fieldN w = n := by
  have := w.isLt
  rw [← BitVec.toNat_inj, toNat_and_F00F, fieldF_eq, fieldN_eq, BitVec.toNat_ofNat]; omega

/-- A word of a row that examines the family and the low byte. -/
theorem and_F0FF_eq_iff (w : Word) {p k : Nat} (hp : p < 16) (hk : k < 256) :
    w &&& 0xF0FF#16 = BitVec.ofNat 16 (p * 4096 + k) ↔ fieldF w = p ∧ fieldLow w = k := by
  have := w.isLt
  rw [← BitVec.toNat_inj, toNat_and_F0FF, fieldF_eq, fieldLow_eq, BitVec.toNat_ofNat]; omega

end Sys2Proof
end

