-- ==== Sys2Proof/Laws/State.lean ====
section
/-! SUPPORT. For each update of the state, what each field reads as after it; no later proof unfolds a record update. -/

namespace Sys2Proof.Machine.State

variable (s : State)

/-! ### setV -/

@[simp] theorem setV_v (r : Reg) (b : Byte) : (s.setV r b).v = s.v.set r.val b := rfl
@[simp] theorem setV_i (r : Reg) (b : Byte) : (s.setV r b).i = s.i := rfl
@[simp] theorem setV_pc (r : Reg) (b : Byte) : (s.setV r b).pc = s.pc := rfl
@[simp] theorem setV_stack (r : Reg) (b : Byte) : (s.setV r b).stack = s.stack := rfl
@[simp] theorem setV_sp (r : Reg) (b : Byte) : (s.setV r b).sp = s.sp := rfl
@[simp] theorem setV_dt (r : Reg) (b : Byte) : (s.setV r b).dt = s.dt := rfl
@[simp] theorem setV_st (r : Reg) (b : Byte) : (s.setV r b).st = s.st := rfl
@[simp] theorem setV_key (r : Reg) (b : Byte) : (s.setV r b).key = s.key := rfl
@[simp] theorem setV_fb (r : Reg) (b : Byte) : (s.setV r b).fb = s.fb := rfl
@[simp] theorem setV_dirty (r : Reg) (b : Byte) : (s.setV r b).dirty = s.dirty := rfl
@[simp] theorem setV_mem (r : Reg) (b : Byte) : (s.setV r b).mem = s.mem := rfl
@[simp] theorem setV_faultCause (r : Reg) (b : Byte) : (s.setV r b).faultCause = s.faultCause := rfl
@[simp] theorem setV_faultPc (r : Reg) (b : Byte) : (s.setV r b).faultPc = s.faultPc := rfl
@[simp] theorem setV_faultWord (r : Reg) (b : Byte) : (s.setV r b).faultWord = s.faultWord := rfl
@[simp] theorem setV_draws (r : Reg) (b : Byte) : (s.setV r b).draws = s.draws := rfl
@[simp] theorem setV_started (r : Reg) (b : Byte) : (s.setV r b).started = s.started := rfl
@[simp] theorem setV_memRead (r : Reg) (b : Byte) (c : Nat) : (s.setV r b).memRead c = s.memRead c := rfl
@[simp] theorem setV_fetchWord (r : Reg) (b : Byte) : (s.setV r b).fetchWord = s.fetchWord := rfl
@[simp] theorem setV_halted (r : Reg) (b : Byte) : (s.setV r b).halted = s.halted := rfl

/-! ### setI -/

@[simp] theorem setI_v (w : Word) : (s.setI w).v = s.v := rfl
@[simp] theorem setI_i (w : Word) : (s.setI w).i = w := rfl
@[simp] theorem setI_pc (w : Word) : (s.setI w).pc = s.pc := rfl
@[simp] theorem setI_stack (w : Word) : (s.setI w).stack = s.stack := rfl
@[simp] theorem setI_sp (w : Word) : (s.setI w).sp = s.sp := rfl
@[simp] theorem setI_dt (w : Word) : (s.setI w).dt = s.dt := rfl
@[simp] theorem setI_st (w : Word) : (s.setI w).st = s.st := rfl
@[simp] theorem setI_key (w : Word) : (s.setI w).key = s.key := rfl
@[simp] theorem setI_fb (w : Word) : (s.setI w).fb = s.fb := rfl
@[simp] theorem setI_dirty (w : Word) : (s.setI w).dirty = s.dirty := rfl
@[simp] theorem setI_mem (w : Word) : (s.setI w).mem = s.mem := rfl
@[simp] theorem setI_faultCause (w : Word) : (s.setI w).faultCause = s.faultCause := rfl
@[simp] theorem setI_faultPc (w : Word) : (s.setI w).faultPc = s.faultPc := rfl
@[simp] theorem setI_faultWord (w : Word) : (s.setI w).faultWord = s.faultWord := rfl
@[simp] theorem setI_draws (w : Word) : (s.setI w).draws = s.draws := rfl
@[simp] theorem setI_started (w : Word) : (s.setI w).started = s.started := rfl
@[simp] theorem setI_V (w : Word) (q : Reg) : (s.setI w).V q = s.V q := rfl
@[simp] theorem setI_memRead (w : Word) (c : Nat) : (s.setI w).memRead c = s.memRead c := rfl
@[simp] theorem setI_fetchWord (w : Word) : (s.setI w).fetchWord = s.fetchWord := rfl
@[simp] theorem setI_halted (w : Word) : (s.setI w).halted = s.halted := rfl

/-! ### setPc -/

@[simp] theorem setPc_v (w : Word) : (s.setPc w).v = s.v := rfl
@[simp] theorem setPc_i (w : Word) : (s.setPc w).i = s.i := rfl
@[simp] theorem setPc_pc (w : Word) : (s.setPc w).pc = w := rfl
@[simp] theorem setPc_stack (w : Word) : (s.setPc w).stack = s.stack := rfl
@[simp] theorem setPc_sp (w : Word) : (s.setPc w).sp = s.sp := rfl
@[simp] theorem setPc_dt (w : Word) : (s.setPc w).dt = s.dt := rfl
@[simp] theorem setPc_st (w : Word) : (s.setPc w).st = s.st := rfl
@[simp] theorem setPc_key (w : Word) : (s.setPc w).key = s.key := rfl
@[simp] theorem setPc_fb (w : Word) : (s.setPc w).fb = s.fb := rfl
@[simp] theorem setPc_dirty (w : Word) : (s.setPc w).dirty = s.dirty := rfl
@[simp] theorem setPc_mem (w : Word) : (s.setPc w).mem = s.mem := rfl
@[simp] theorem setPc_faultCause (w : Word) : (s.setPc w).faultCause = s.faultCause := rfl
@[simp] theorem setPc_faultPc (w : Word) : (s.setPc w).faultPc = s.faultPc := rfl
@[simp] theorem setPc_faultWord (w : Word) : (s.setPc w).faultWord = s.faultWord := rfl
@[simp] theorem setPc_draws (w : Word) : (s.setPc w).draws = s.draws := rfl
@[simp] theorem setPc_started (w : Word) : (s.setPc w).started = s.started := rfl
@[simp] theorem setPc_V (w : Word) (q : Reg) : (s.setPc w).V q = s.V q := rfl
@[simp] theorem setPc_memRead (w : Word) (c : Nat) : (s.setPc w).memRead c = s.memRead c := rfl
@[simp] theorem setPc_halted (w : Word) : (s.setPc w).halted = s.halted := rfl

/-! ### advance -/

@[simp] theorem advance_v : (s.advance).v = s.v := rfl
@[simp] theorem advance_i : (s.advance).i = s.i := rfl
@[simp] theorem advance_pc : (s.advance).pc = s.pc + 2 := rfl
@[simp] theorem advance_stack : (s.advance).stack = s.stack := rfl
@[simp] theorem advance_sp : (s.advance).sp = s.sp := rfl
@[simp] theorem advance_dt : (s.advance).dt = s.dt := rfl
@[simp] theorem advance_st : (s.advance).st = s.st := rfl
@[simp] theorem advance_key : (s.advance).key = s.key := rfl
@[simp] theorem advance_fb : (s.advance).fb = s.fb := rfl
@[simp] theorem advance_dirty : (s.advance).dirty = s.dirty := rfl
@[simp] theorem advance_mem : (s.advance).mem = s.mem := rfl
@[simp] theorem advance_faultCause : (s.advance).faultCause = s.faultCause := rfl
@[simp] theorem advance_faultPc : (s.advance).faultPc = s.faultPc := rfl
@[simp] theorem advance_faultWord : (s.advance).faultWord = s.faultWord := rfl
@[simp] theorem advance_draws : (s.advance).draws = s.draws := rfl
@[simp] theorem advance_started : (s.advance).started = s.started := rfl
@[simp] theorem advance_V (q : Reg) : (s.advance).V q = s.V q := rfl
@[simp] theorem advance_memRead (c : Nat) : (s.advance).memRead c = s.memRead c := rfl
@[simp] theorem advance_halted : (s.advance).halted = s.halted := rfl

/-! ### setDt -/

@[simp] theorem setDt_v (b : Byte) : (s.setDt b).v = s.v := rfl
@[simp] theorem setDt_i (b : Byte) : (s.setDt b).i = s.i := rfl
@[simp] theorem setDt_pc (b : Byte) : (s.setDt b).pc = s.pc := rfl
@[simp] theorem setDt_stack (b : Byte) : (s.setDt b).stack = s.stack := rfl
@[simp] theorem setDt_sp (b : Byte) : (s.setDt b).sp = s.sp := rfl
@[simp] theorem setDt_dt (b : Byte) : (s.setDt b).dt = b := rfl
@[simp] theorem setDt_st (b : Byte) : (s.setDt b).st = s.st := rfl
@[simp] theorem setDt_key (b : Byte) : (s.setDt b).key = s.key := rfl
@[simp] theorem setDt_fb (b : Byte) : (s.setDt b).fb = s.fb := rfl
@[simp] theorem setDt_dirty (b : Byte) : (s.setDt b).dirty = s.dirty := rfl
@[simp] theorem setDt_mem (b : Byte) : (s.setDt b).mem = s.mem := rfl
@[simp] theorem setDt_faultCause (b : Byte) : (s.setDt b).faultCause = s.faultCause := rfl
@[simp] theorem setDt_faultPc (b : Byte) : (s.setDt b).faultPc = s.faultPc := rfl
@[simp] theorem setDt_faultWord (b : Byte) : (s.setDt b).faultWord = s.faultWord := rfl
@[simp] theorem setDt_draws (b : Byte) : (s.setDt b).draws = s.draws := rfl
@[simp] theorem setDt_started (b : Byte) : (s.setDt b).started = s.started := rfl
@[simp] theorem setDt_V (b : Byte) (q : Reg) : (s.setDt b).V q = s.V q := rfl
@[simp] theorem setDt_memRead (b : Byte) (c : Nat) : (s.setDt b).memRead c = s.memRead c := rfl
@[simp] theorem setDt_fetchWord (b : Byte) : (s.setDt b).fetchWord = s.fetchWord := rfl
@[simp] theorem setDt_halted (b : Byte) : (s.setDt b).halted = s.halted := rfl

/-! ### setSt -/

@[simp] theorem setSt_v (b : Byte) : (s.setSt b).v = s.v := rfl
@[simp] theorem setSt_i (b : Byte) : (s.setSt b).i = s.i := rfl
@[simp] theorem setSt_pc (b : Byte) : (s.setSt b).pc = s.pc := rfl
@[simp] theorem setSt_stack (b : Byte) : (s.setSt b).stack = s.stack := rfl
@[simp] theorem setSt_sp (b : Byte) : (s.setSt b).sp = s.sp := rfl
@[simp] theorem setSt_dt (b : Byte) : (s.setSt b).dt = s.dt := rfl
@[simp] theorem setSt_st (b : Byte) : (s.setSt b).st = b := rfl
@[simp] theorem setSt_key (b : Byte) : (s.setSt b).key = s.key := rfl
@[simp] theorem setSt_fb (b : Byte) : (s.setSt b).fb = s.fb := rfl
@[simp] theorem setSt_dirty (b : Byte) : (s.setSt b).dirty = s.dirty := rfl
@[simp] theorem setSt_mem (b : Byte) : (s.setSt b).mem = s.mem := rfl
@[simp] theorem setSt_faultCause (b : Byte) : (s.setSt b).faultCause = s.faultCause := rfl
@[simp] theorem setSt_faultPc (b : Byte) : (s.setSt b).faultPc = s.faultPc := rfl
@[simp] theorem setSt_faultWord (b : Byte) : (s.setSt b).faultWord = s.faultWord := rfl
@[simp] theorem setSt_draws (b : Byte) : (s.setSt b).draws = s.draws := rfl
@[simp] theorem setSt_started (b : Byte) : (s.setSt b).started = s.started := rfl
@[simp] theorem setSt_V (b : Byte) (q : Reg) : (s.setSt b).V q = s.V q := rfl
@[simp] theorem setSt_memRead (b : Byte) (c : Nat) : (s.setSt b).memRead c = s.memRead c := rfl
@[simp] theorem setSt_fetchWord (b : Byte) : (s.setSt b).fetchWord = s.fetchWord := rfl
@[simp] theorem setSt_halted (b : Byte) : (s.setSt b).halted = s.halted := rfl

/-! ### memWrite -/

@[simp] theorem memWrite_v (a : Nat) (b : Byte) : (s.memWrite a b).v = s.v := rfl
@[simp] theorem memWrite_i (a : Nat) (b : Byte) : (s.memWrite a b).i = s.i := rfl
@[simp] theorem memWrite_pc (a : Nat) (b : Byte) : (s.memWrite a b).pc = s.pc := rfl
@[simp] theorem memWrite_stack (a : Nat) (b : Byte) : (s.memWrite a b).stack = s.stack := rfl
@[simp] theorem memWrite_sp (a : Nat) (b : Byte) : (s.memWrite a b).sp = s.sp := rfl
@[simp] theorem memWrite_dt (a : Nat) (b : Byte) : (s.memWrite a b).dt = s.dt := rfl
@[simp] theorem memWrite_st (a : Nat) (b : Byte) : (s.memWrite a b).st = s.st := rfl
@[simp] theorem memWrite_key (a : Nat) (b : Byte) : (s.memWrite a b).key = s.key := rfl
@[simp] theorem memWrite_fb (a : Nat) (b : Byte) : (s.memWrite a b).fb = s.fb := rfl
@[simp] theorem memWrite_dirty (a : Nat) (b : Byte) : (s.memWrite a b).dirty = s.dirty := rfl
@[simp] theorem memWrite_mem (a : Nat) (b : Byte) : (s.memWrite a b).mem = s.mem.write (a % 4096) b := rfl
@[simp] theorem memWrite_faultCause (a : Nat) (b : Byte) : (s.memWrite a b).faultCause = s.faultCause := rfl
@[simp] theorem memWrite_faultPc (a : Nat) (b : Byte) : (s.memWrite a b).faultPc = s.faultPc := rfl
@[simp] theorem memWrite_faultWord (a : Nat) (b : Byte) : (s.memWrite a b).faultWord = s.faultWord := rfl
@[simp] theorem memWrite_draws (a : Nat) (b : Byte) : (s.memWrite a b).draws = s.draws := rfl
@[simp] theorem memWrite_started (a : Nat) (b : Byte) : (s.memWrite a b).started = s.started := rfl
@[simp] theorem memWrite_V (a : Nat) (b : Byte) (q : Reg) : (s.memWrite a b).V q = s.V q := rfl
@[simp] theorem memWrite_halted (a : Nat) (b : Byte) : (s.memWrite a b).halted = s.halted := rfl

/-! ### setFb -/

@[simp] theorem setFb_v (f : Framebuffer) : (s.setFb f).v = s.v := rfl
@[simp] theorem setFb_i (f : Framebuffer) : (s.setFb f).i = s.i := rfl
@[simp] theorem setFb_pc (f : Framebuffer) : (s.setFb f).pc = s.pc := rfl
@[simp] theorem setFb_stack (f : Framebuffer) : (s.setFb f).stack = s.stack := rfl
@[simp] theorem setFb_sp (f : Framebuffer) : (s.setFb f).sp = s.sp := rfl
@[simp] theorem setFb_dt (f : Framebuffer) : (s.setFb f).dt = s.dt := rfl
@[simp] theorem setFb_st (f : Framebuffer) : (s.setFb f).st = s.st := rfl
@[simp] theorem setFb_key (f : Framebuffer) : (s.setFb f).key = s.key := rfl
@[simp] theorem setFb_fb (f : Framebuffer) : (s.setFb f).fb = f := rfl
@[simp] theorem setFb_dirty (f : Framebuffer) : (s.setFb f).dirty = true := rfl
@[simp] theorem setFb_mem (f : Framebuffer) : (s.setFb f).mem = s.mem := rfl
@[simp] theorem setFb_faultCause (f : Framebuffer) : (s.setFb f).faultCause = s.faultCause := rfl
@[simp] theorem setFb_faultPc (f : Framebuffer) : (s.setFb f).faultPc = s.faultPc := rfl
@[simp] theorem setFb_faultWord (f : Framebuffer) : (s.setFb f).faultWord = s.faultWord := rfl
@[simp] theorem setFb_draws (f : Framebuffer) : (s.setFb f).draws = s.draws := rfl
@[simp] theorem setFb_started (f : Framebuffer) : (s.setFb f).started = s.started := rfl
@[simp] theorem setFb_V (f : Framebuffer) (q : Reg) : (s.setFb f).V q = s.V q := rfl
@[simp] theorem setFb_memRead (f : Framebuffer) (c : Nat) : (s.setFb f).memRead c = s.memRead c := rfl
@[simp] theorem setFb_fetchWord (f : Framebuffer) : (s.setFb f).fetchWord = s.fetchWord := rfl
@[simp] theorem setFb_halted (f : Framebuffer) : (s.setFb f).halted = s.halted := rfl

/-! ### takeFault -/

@[simp] theorem takeFault_v (k : FaultCause) : (s.takeFault k).v = s.v := rfl
@[simp] theorem takeFault_i (k : FaultCause) : (s.takeFault k).i = s.i := rfl
@[simp] theorem takeFault_pc (k : FaultCause) : (s.takeFault k).pc = s.pc := rfl
@[simp] theorem takeFault_stack (k : FaultCause) : (s.takeFault k).stack = s.stack := rfl
@[simp] theorem takeFault_sp (k : FaultCause) : (s.takeFault k).sp = s.sp := rfl
@[simp] theorem takeFault_dt (k : FaultCause) : (s.takeFault k).dt = s.dt := rfl
@[simp] theorem takeFault_st (k : FaultCause) : (s.takeFault k).st = s.st := rfl
@[simp] theorem takeFault_key (k : FaultCause) : (s.takeFault k).key = s.key := rfl
@[simp] theorem takeFault_fb (k : FaultCause) : (s.takeFault k).fb = s.fb := rfl
@[simp] theorem takeFault_dirty (k : FaultCause) : (s.takeFault k).dirty = s.dirty := rfl
@[simp] theorem takeFault_mem (k : FaultCause) : (s.takeFault k).mem = s.mem := rfl
@[simp] theorem takeFault_faultCause (k : FaultCause) : (s.takeFault k).faultCause = k := rfl
@[simp] theorem takeFault_faultPc (k : FaultCause) : (s.takeFault k).faultPc = s.pc := rfl
@[simp] theorem takeFault_faultWord (k : FaultCause) : (s.takeFault k).faultWord = s.fetchWord := rfl
@[simp] theorem takeFault_draws (k : FaultCause) : (s.takeFault k).draws = s.draws := rfl
@[simp] theorem takeFault_started (k : FaultCause) : (s.takeFault k).started = s.started := rfl
@[simp] theorem takeFault_V (k : FaultCause) (q : Reg) : (s.takeFault k).V q = s.V q := rfl
@[simp] theorem takeFault_memRead (k : FaultCause) (c : Nat) : (s.takeFault k).memRead c = s.memRead c := rfl
@[simp] theorem takeFault_fetchWord (k : FaultCause) : (s.takeFault k).fetchWord = s.fetchWord := rfl

/-! ### noteDraw -/

@[simp] theorem noteDraw_v : (s.noteDraw).v = s.v := rfl
@[simp] theorem noteDraw_i : (s.noteDraw).i = s.i := rfl
@[simp] theorem noteDraw_pc : (s.noteDraw).pc = s.pc := rfl
@[simp] theorem noteDraw_stack : (s.noteDraw).stack = s.stack := rfl
@[simp] theorem noteDraw_sp : (s.noteDraw).sp = s.sp := rfl
@[simp] theorem noteDraw_dt : (s.noteDraw).dt = s.dt := rfl
@[simp] theorem noteDraw_st : (s.noteDraw).st = s.st := rfl
@[simp] theorem noteDraw_key : (s.noteDraw).key = s.key := rfl
@[simp] theorem noteDraw_fb : (s.noteDraw).fb = s.fb := rfl
@[simp] theorem noteDraw_dirty : (s.noteDraw).dirty = s.dirty := rfl
@[simp] theorem noteDraw_mem : (s.noteDraw).mem = s.mem := rfl
@[simp] theorem noteDraw_faultCause : (s.noteDraw).faultCause = s.faultCause := rfl
@[simp] theorem noteDraw_faultPc : (s.noteDraw).faultPc = s.faultPc := rfl
@[simp] theorem noteDraw_faultWord : (s.noteDraw).faultWord = s.faultWord := rfl
@[simp] theorem noteDraw_draws : (s.noteDraw).draws = s.draws + 1 := rfl
@[simp] theorem noteDraw_started : (s.noteDraw).started = s.started := rfl
@[simp] theorem noteDraw_V (q : Reg) : (s.noteDraw).V q = s.V q := rfl
@[simp] theorem noteDraw_memRead (c : Nat) : (s.noteDraw).memRead c = s.memRead c := rfl
@[simp] theorem noteDraw_fetchWord : (s.noteDraw).fetchWord = s.fetchWord := rfl
@[simp] theorem noteDraw_halted : (s.noteDraw).halted = s.halted := rfl

/-! ### timerTick -/

@[simp] theorem timerTick_v : (s.timerTick).v = s.v := rfl
@[simp] theorem timerTick_i : (s.timerTick).i = s.i := rfl
@[simp] theorem timerTick_pc : (s.timerTick).pc = s.pc := rfl
@[simp] theorem timerTick_stack : (s.timerTick).stack = s.stack := rfl
@[simp] theorem timerTick_sp : (s.timerTick).sp = s.sp := rfl
@[simp] theorem timerTick_dt : (s.timerTick).dt = tickDown s.dt := rfl
@[simp] theorem timerTick_st : (s.timerTick).st = tickDown s.st := rfl
@[simp] theorem timerTick_key : (s.timerTick).key = s.key := rfl
@[simp] theorem timerTick_fb : (s.timerTick).fb = s.fb := rfl
@[simp] theorem timerTick_dirty : (s.timerTick).dirty = s.dirty := rfl
@[simp] theorem timerTick_mem : (s.timerTick).mem = s.mem := rfl
@[simp] theorem timerTick_faultCause : (s.timerTick).faultCause = s.faultCause := rfl
@[simp] theorem timerTick_faultPc : (s.timerTick).faultPc = s.faultPc := rfl
@[simp] theorem timerTick_faultWord : (s.timerTick).faultWord = s.faultWord := rfl
@[simp] theorem timerTick_draws : (s.timerTick).draws = s.draws := rfl
@[simp] theorem timerTick_started : (s.timerTick).started = s.started := rfl
@[simp] theorem timerTick_V (q : Reg) : (s.timerTick).V q = s.V q := rfl
@[simp] theorem timerTick_memRead (c : Nat) : (s.timerTick).memRead c = s.memRead c := rfl
@[simp] theorem timerTick_fetchWord : (s.timerTick).fetchWord = s.fetchWord := rfl
@[simp] theorem timerTick_halted : (s.timerTick).halted = s.halted := rfl

/-! ### beginCycle -/

@[simp] theorem beginCycle_v : (s.beginCycle).v = s.v := rfl
@[simp] theorem beginCycle_i : (s.beginCycle).i = s.i := rfl
@[simp] theorem beginCycle_pc : (s.beginCycle).pc = s.pc := rfl
@[simp] theorem beginCycle_stack : (s.beginCycle).stack = s.stack := rfl
@[simp] theorem beginCycle_sp : (s.beginCycle).sp = s.sp := rfl
@[simp] theorem beginCycle_dt : (s.beginCycle).dt = s.dt := rfl
@[simp] theorem beginCycle_st : (s.beginCycle).st = s.st := rfl
@[simp] theorem beginCycle_key : (s.beginCycle).key = s.key := rfl
@[simp] theorem beginCycle_fb : (s.beginCycle).fb = s.fb := rfl
@[simp] theorem beginCycle_dirty : (s.beginCycle).dirty = s.dirty := rfl
@[simp] theorem beginCycle_mem : (s.beginCycle).mem = s.mem := rfl
@[simp] theorem beginCycle_faultCause : (s.beginCycle).faultCause = s.faultCause := rfl
@[simp] theorem beginCycle_faultPc : (s.beginCycle).faultPc = s.faultPc := rfl
@[simp] theorem beginCycle_faultWord : (s.beginCycle).faultWord = s.faultWord := rfl
@[simp] theorem beginCycle_draws : (s.beginCycle).draws = s.draws := rfl
@[simp] theorem beginCycle_started : (s.beginCycle).started = true := rfl
@[simp] theorem beginCycle_V (q : Reg) : (s.beginCycle).V q = s.V q := rfl
@[simp] theorem beginCycle_memRead (c : Nat) : (s.beginCycle).memRead c = s.memRead c := rfl
@[simp] theorem beginCycle_fetchWord : (s.beginCycle).fetchWord = s.fetchWord := rfl
@[simp] theorem beginCycle_halted : (s.beginCycle).halted = s.halted := rfl

/-! ### setKeypad -/

@[simp] theorem setKeypad_v (k : Vector Bool 16) : (s.setKeypad k).v = s.v := rfl
@[simp] theorem setKeypad_i (k : Vector Bool 16) : (s.setKeypad k).i = s.i := rfl
@[simp] theorem setKeypad_pc (k : Vector Bool 16) : (s.setKeypad k).pc = s.pc := rfl
@[simp] theorem setKeypad_stack (k : Vector Bool 16) : (s.setKeypad k).stack = s.stack := rfl
@[simp] theorem setKeypad_sp (k : Vector Bool 16) : (s.setKeypad k).sp = s.sp := rfl
@[simp] theorem setKeypad_dt (k : Vector Bool 16) : (s.setKeypad k).dt = s.dt := rfl
@[simp] theorem setKeypad_st (k : Vector Bool 16) : (s.setKeypad k).st = s.st := rfl
@[simp] theorem setKeypad_key (k : Vector Bool 16) : (s.setKeypad k).key = k := rfl
@[simp] theorem setKeypad_fb (k : Vector Bool 16) : (s.setKeypad k).fb = s.fb := rfl
@[simp] theorem setKeypad_dirty (k : Vector Bool 16) : (s.setKeypad k).dirty = s.dirty := rfl
@[simp] theorem setKeypad_mem (k : Vector Bool 16) : (s.setKeypad k).mem = s.mem := rfl
@[simp] theorem setKeypad_faultCause (k : Vector Bool 16) : (s.setKeypad k).faultCause = s.faultCause := rfl
@[simp] theorem setKeypad_faultPc (k : Vector Bool 16) : (s.setKeypad k).faultPc = s.faultPc := rfl
@[simp] theorem setKeypad_faultWord (k : Vector Bool 16) : (s.setKeypad k).faultWord = s.faultWord := rfl
@[simp] theorem setKeypad_draws (k : Vector Bool 16) : (s.setKeypad k).draws = s.draws := rfl
@[simp] theorem setKeypad_started (k : Vector Bool 16) : (s.setKeypad k).started = s.started := rfl
@[simp] theorem setKeypad_V (k : Vector Bool 16) (q : Reg) : (s.setKeypad k).V q = s.V q := rfl
@[simp] theorem setKeypad_memRead (k : Vector Bool 16) (c : Nat) : (s.setKeypad k).memRead c = s.memRead c := rfl
@[simp] theorem setKeypad_fetchWord (k : Vector Bool 16) : (s.setKeypad k).fetchWord = s.fetchWord := rfl
@[simp] theorem setKeypad_halted (k : Vector Bool 16) : (s.setKeypad k).halted = s.halted := rfl

/-! ### clearDirty -/

@[simp] theorem clearDirty_v : (s.clearDirty).v = s.v := rfl
@[simp] theorem clearDirty_i : (s.clearDirty).i = s.i := rfl
@[simp] theorem clearDirty_pc : (s.clearDirty).pc = s.pc := rfl
@[simp] theorem clearDirty_stack : (s.clearDirty).stack = s.stack := rfl
@[simp] theorem clearDirty_sp : (s.clearDirty).sp = s.sp := rfl
@[simp] theorem clearDirty_dt : (s.clearDirty).dt = s.dt := rfl
@[simp] theorem clearDirty_st : (s.clearDirty).st = s.st := rfl
@[simp] theorem clearDirty_key : (s.clearDirty).key = s.key := rfl
@[simp] theorem clearDirty_fb : (s.clearDirty).fb = s.fb := rfl
@[simp] theorem clearDirty_dirty : (s.clearDirty).dirty = false := rfl
@[simp] theorem clearDirty_mem : (s.clearDirty).mem = s.mem := rfl
@[simp] theorem clearDirty_faultCause : (s.clearDirty).faultCause = s.faultCause := rfl
@[simp] theorem clearDirty_faultPc : (s.clearDirty).faultPc = s.faultPc := rfl
@[simp] theorem clearDirty_faultWord : (s.clearDirty).faultWord = s.faultWord := rfl
@[simp] theorem clearDirty_draws : (s.clearDirty).draws = s.draws := rfl
@[simp] theorem clearDirty_started : (s.clearDirty).started = s.started := rfl
@[simp] theorem clearDirty_V (q : Reg) : (s.clearDirty).V q = s.V q := rfl
@[simp] theorem clearDirty_memRead (c : Nat) : (s.clearDirty).memRead c = s.memRead c := rfl
@[simp] theorem clearDirty_fetchWord : (s.clearDirty).fetchWord = s.fetchWord := rfl
@[simp] theorem clearDirty_halted : (s.clearDirty).halted = s.halted := rfl

/-! ### setV and V -/

/-- A register reads as the value last written to it, and every other as before (10_state.md R20: no aliases). -/
theorem setV_V (r q : Reg) (b : Byte) : (s.setV r b).V q = if q = r then b else s.V q := by
  simp only [V, setV, Vector.getElem_set, Fin.ext_iff]
  split <;> split <;> first | rfl | omega

@[simp] theorem setV_V_same (r : Reg) (b : Byte) : (s.setV r b).V r = b := by simp [setV_V]

@[simp] theorem setV_V_of_ne {r q : Reg} (h : q ≠ r) (b : Byte) : (s.setV r b).V q = s.V q := by simp [setV_V, h]

/-! ### skipIf: only pc moves, by 2 or by 4 (30_encoding.md R83) -/

theorem skipIf_eq (c : Bool) : s.skipIf c = s.setPc (if c then s.pc + 4 else s.pc + 2) := by
  cases c
  · rfl
  · simp only [skipIf, advance, setPc, if_true]
    congr 1
    bv_omega

/-! ### The halted core -/

theorem halted_iff {s : State} : s.halted = true ↔ s.faultCause ≠ .none := by simp [halted]

theorem not_halted_iff {s : State} : s.halted = false ↔ s.faultCause = .none := by simp [halted]

@[simp] theorem reset_halted : State.reset.halted = false := rfl

end Sys2Proof.Machine.State
end

