-- ==== Sys2Proof/Laws/Memory.lean ====
section
/-! SUPPORT. Memory: what a read gives after a write, that every memory operation keeps the canonical form, and that
equal memories are equal data (20_memory.md R51, R58). -/

namespace Sys2Proof.Machine

namespace Memory

@[simp] theorem read_nil (a : Nat) : Memory.read [] a = unlistedByte a := rfl

@[simp] theorem read_cons (k : Nat) (b : Byte) (m : Memory) (a : Nat) :
    Memory.read ((k, b) :: m) a = if k = a then b else Memory.read m a := rfl

theorem wfFrom_cons {lo k : Nat} {b : Byte} {m : Memory} :
    Memory.wfFrom lo ((k, b) :: m) = true ↔
      lo ≤ k ∧ k < 4096 ∧ b ≠ unlistedByte k ∧ Memory.wfFrom (k + 1) m = true := by
  simp [Memory.wfFrom, and_assoc]

/-- The form from a higher address is the form from a lower one. -/
theorem wfFrom_mono {lo lo' : Nat} (h : lo' ≤ lo) : ∀ {m : Memory}, Memory.wfFrom lo m = true → Memory.wfFrom lo' m = true
  | [], _ => rfl
  | (k, b) :: m, hm => by
    rw [wfFrom_cons] at hm ⊢
    exact ⟨by omega, hm.2⟩

/-- An address below the first listed one reads as unlisted. -/
theorem read_of_lt {a : Nat} : ∀ {lo : Nat} {m : Memory}, Memory.wfFrom lo m = true → a < lo → Memory.read m a = unlistedByte a
  | _, [], _, _ => rfl
  | lo, (k, b) :: m, hm, h => by
    rw [wfFrom_cons] at hm
    have hk : k ≠ a := by omega
    simp only [read_cons, if_neg hk]
    exact read_of_lt hm.2.2.2 (by omega)

/-- A write keeps the canonical form. -/
theorem write_wfFrom {a : Nat} {b : Byte} (ha : a < 4096) :
    ∀ {lo : Nat} {m : Memory}, Memory.wfFrom lo m = true → lo ≤ a → Memory.wfFrom lo (Memory.write m a b) = true
  | lo, [], _, h => by
    simp only [Memory.write]
    split
    · rfl
    · next hb => exact wfFrom_cons.2 ⟨h, ha, hb, rfl⟩
  | lo, (k, c) :: m, hm, h => by
    have hm' := wfFrom_cons.1 hm
    simp only [Memory.write]
    split
    · split
      · exact hm
      · next hk hb => exact wfFrom_cons.2 ⟨h, ha, hb, wfFrom_cons.2 ⟨hk, hm'.2⟩⟩
    · split
      · next hk he =>
        subst he
        split
        · exact wfFrom_mono (by omega) hm'.2.2.2
        · next hb => exact wfFrom_cons.2 ⟨h, ha, hb, hm'.2.2.2⟩
      · next hk he => exact wfFrom_cons.2 ⟨hm'.1, hm'.2.1, hm'.2.2.1, write_wfFrom ha hm'.2.2.2 (by omega)⟩

/-- What a write does: the byte at its address, and no other. -/
theorem read_write {a : Nat} {b : Byte} (c : Nat) :
    ∀ {lo : Nat} {m : Memory}, Memory.wfFrom lo m = true → Memory.read (Memory.write m a b) c = if c = a then b else Memory.read m c
  | lo, [], _ => by
    simp only [Memory.write]
    by_cases hc : c = a
    · subst hc; split <;> simp [*]
    · split <;> simp [Ne.symm hc]
  | lo, (k, e) :: m, hm => by
    have hm' := wfFrom_cons.1 hm
    simp only [Memory.write]
    split
    · next hk =>
      have hr : Memory.read m a = unlistedByte a := read_of_lt hm'.2.2.2 (by omega)
      split
      · next hb =>
        by_cases hc : c = a
        · subst hc; simp [show k ≠ c by omega, hr, hb]
        · simp [hc]
      · by_cases hc : c = a
        · subst hc; simp
        · simp [Ne.symm hc, hc]
    · split
      · next he =>
        subst he
        have hr : Memory.read m a = unlistedByte a := read_of_lt hm'.2.2.2 (by omega)
        by_cases hc : c = a
        · subst hc; split <;> simp_all
        · split <;> simp [Ne.symm hc]
      · next he =>
        simp only [read_cons]
        rw [read_write c hm'.2.2.2]
        by_cases hc : c = a
        · subst hc; simp [Ne.symm he]
        · simp [hc]

/-- Two canonical memories that read alike everywhere are the same data. -/
theorem eq_of_read_eq : ∀ {lo : Nat} {m m' : Memory}, Memory.wfFrom lo m = true → Memory.wfFrom lo m' = true →
    (∀ a, Memory.read m a = Memory.read m' a) → m = m'
  | _, [], [], _, _, _ => rfl
  | _, [], (k, b) :: m', _, hm', h => by
    have := h k
    simp only [read_nil, read_cons, if_true] at this
    exact absurd this.symm (wfFrom_cons.1 hm').2.2.1
  | _, (k, b) :: m, [], hm, _, h => by
    have := h k
    simp only [read_nil, read_cons, if_true] at this
    exact absurd this (wfFrom_cons.1 hm).2.2.1
  | lo, (k, b) :: m, (k', b') :: m', hm, hm', h => by
    have w := wfFrom_cons.1 hm
    have w' := wfFrom_cons.1 hm'
    have key : k = k' := by
      rcases Nat.lt_trichotomy k k' with hk | hk | hk
      · have := h k
        simp only [read_cons, if_true, if_neg (show k' ≠ k by omega)] at this
        rw [read_of_lt w'.2.2.2 (by omega)] at this
        exact absurd this w.2.2.1
      · exact hk
      · have := h k'
        simp only [read_cons, if_true, if_neg (show k ≠ k' by omega)] at this
        rw [read_of_lt w.2.2.2 (by omega)] at this
        exact absurd this.symm w'.2.2.1
    subst key
    have hb : b = b' := by simpa using h k
    subst hb
    have tail : ∀ a, Memory.read m a = Memory.read m' a := by
      intro a
      by_cases hc : k = a
      · subst hc
        rw [read_of_lt w.2.2.2 (by omega), read_of_lt w'.2.2.2 (by omega)]
      · simpa [hc] using h a
    rw [eq_of_read_eq w.2.2.2 w'.2.2.2 tail]

/-- A write keeps the canonical form. -/
theorem write_wf {m : Memory} (hm : m.wf = true) {a : Nat} (ha : a < 4096) (b : Byte) : (m.write a b).wf = true :=
  write_wfFrom ha hm (Nat.zero_le a)

/-- Consecutive writes keep the canonical form. -/
theorem writeList_wf : ∀ (bs : List Byte) {m : Memory} (a : Nat), m.wf = true → (m.writeList a bs).wf = true
  | [], _, _, hm => hm
  | b :: bs, _, a, hm => writeList_wf bs (a + 1) (write_wf hm (Nat.mod_lt _ (by decide)) b)

/-- Consecutive writes leave every other byte alone. -/
theorem read_writeList_other : ∀ (bs : List Byte) {m : Memory} (a c : Nat), m.wf = true →
    (∀ j, j < bs.length → (a + j) % 4096 ≠ c) → (m.writeList a bs).read c = m.read c
  | [], _, _, _, _, _ => rfl
  | b :: bs, m, a, c, hm, h => by
    have h0 : a % 4096 ≠ c := by simpa using h 0 (by simp)
    rw [Memory.writeList, read_writeList_other bs (a + 1) c (write_wf hm (Nat.mod_lt _ (by decide)) b)]
    · rw [read_write c hm, if_neg (Ne.symm h0)]
    · intro j hj
      have := h (j + 1) (by simpa using hj)
      rwa [show a + (j + 1) = a + 1 + j by omega] at this

/-- Byte `j` of at most 4096 consecutive writes is at the address `a + j`, reduced modulo 4096. -/
theorem read_writeList_at : ∀ (bs : List Byte) {m : Memory} (a j : Nat), m.wf = true → bs.length ≤ 4096 →
    (h : j < bs.length) → (m.writeList a bs).read ((a + j) % 4096) = bs[j]
  | b :: bs, m, a, 0, hm, hl, _ => by
    rw [Memory.writeList, read_writeList_other bs (a + 1) _ (write_wf hm (Nat.mod_lt _ (by decide)) b)]
    · rw [read_write _ hm]; simp
    · intro j hj
      simp only [List.length_cons] at hl
      omega
  | b :: bs, m, a, j + 1, hm, hl, h => by
    simp only [List.length_cons] at hl h
    have := read_writeList_at bs (m := m.write (a % 4096) b) (a + 1) j (write_wf hm (Nat.mod_lt _ (by decide)) b)
      (by omega) (by omega)
    rw [show a + (j + 1) = a + 1 + j by omega, Memory.writeList]
    simpa using this

@[simp] theorem wf_nil : Memory.wf [] = true := rfl

end Memory

namespace State

/-- `MemRead` after `MemWrite` (R51). -/
theorem memWrite_memRead {s : State} (hs : s.mem.wf = true) (a c : Nat) (b : Byte) :
    (s.memWrite a b).memRead c = if c % 4096 = a % 4096 then b else s.memRead c := by
  simp only [memRead, memWrite]
  exact Memory.read_write _ hs

theorem memWrite_wf {s : State} (hs : s.mem.wf = true) (a : Nat) (b : Byte) : (s.memWrite a b).mem.wf = true :=
  Memory.write_wf hs (Nat.mod_lt _ (by decide)) b

/-- An address and the one 4096 above it are one byte (R51). -/
@[simp] theorem memRead_mod (s : State) (a : Nat) : s.memRead (a % 4096) = s.memRead a := by
  simp [memRead]

theorem reset_wf : State.reset.mem.wf = true := rfl

theorem putFetchWord_wf {s : State} (hs : s.mem.wf = true) (w : Word) : (s.putFetchWord w).mem.wf = true :=
  memWrite_wf (memWrite_wf hs _ _) _ _

theorem putImage_wf {s : State} (hs : s.mem.wf = true) (image : List Byte) : (s.putImage image).mem.wf = true :=
  Memory.writeList_wf image _ hs

end State

end Sys2Proof.Machine
end

