-- ==== Sys2Proof/Laws/Ops.lean ====
section
/-! SUPPORT. One lemma per shared operation that says what it does, for later proofs to cite instead of unfolding it. -/

namespace Sys2Proof.Machine

namespace State

variable (s : State)

/-! ## The call stack -/

/-- A push succeeds exactly below the full stack (10_state.md R27). -/
theorem push_of_lt (w : Word) (h : s.sp.val < 16) :
    s.push w = some { s with stack := s.stack.set s.sp.val w, sp := ⟨s.sp.val + 1, by omega⟩ } := by
  simp [push, h]

theorem push_of_full (w : Word) (h : s.sp = 16) : s.push w = Option.none := by simp [push, h]

theorem pop_of_pos (h : 0 < s.sp.val) :
    s.pop = some (s.stack[s.sp.val - 1], { s with sp := ⟨s.sp.val - 1, by omega⟩ }) := by
  simp [pop, h]

theorem pop_of_empty (h : s.sp = 0) : s.pop = Option.none := by simp [pop, h]

/-- A pop gives back the last push (R26, R27). -/
theorem pop_push {s t : State} {w : Word} (h : s.push w = some t) :
    t.pop = some (w, { t with sp := s.sp }) := by
  unfold push at h
  split at h
  · next hs =>
    cases h
    simp [pop]
  · cases h

/-! ## The keypad -/

/-- The key found is down and no lower one is (44_keys_timers.md R183). -/
theorem lowestKey_eq_some {s : State} {k : Fin 16} :
    s.lowestKey = some k ↔ s.keyDown k = true ∧ ∀ j : Fin 16, j < k → s.keyDown j = false := by
  constructor
  · intro h
    simp only [lowestKey, List.find?_eq_some_iff_getElem] at h
    obtain ⟨hk, n, hn, e, hlow⟩ := h
    refine ⟨hk, fun j hj => ?_⟩
    have hnk : n = k.val := by simpa [Fin.ext_iff] using e
    have := hlow j.val (by rw [hnk]; exact hj)
    simpa using this
  · rintro ⟨hk, hlow⟩
    simp only [lowestKey, List.find?_eq_some_iff_getElem]
    refine ⟨hk, k.val, by simp, by simp, fun j hj => ?_⟩
    have := hlow ⟨j, by omega⟩ (by simpa [Fin.lt_def] using hj)
    simpa using this

theorem lowestKey_eq_none {s : State} : s.lowestKey = Option.none ↔ ∀ k : Fin 16, s.keyDown k = false := by
  simp [lowestKey, List.find?_eq_none]

/-- The key a register selects, and none beyond 15 (44_keys_timers.md R180). -/
theorem keyOperand_of_lt {x : Reg} (h : (s.V x).toNat < 16) : s.keyOperand x = some ⟨(s.V x).toNat, h⟩ := by
  simp [keyOperand, h]

theorem keyOperand_of_gt {x : Reg} (h : (s.V x).toNat > 0xF) : s.keyOperand x = none := by
  simp [keyOperand]; omega

/-! ## Result and flag -/

/-- VF ends as the flag, another destination as the result, and the rest is unchanged (43_alu.md R163). -/
theorem setResultAndFlag_V (x q : Reg) (res f : Byte) :
    (s.setResultAndFlag x res f).V q = if q = vF then f else if q = x then res else s.V q := by
  simp only [setResultAndFlag, advance_V, setV_V]

/-! ## The fetch -/

/-- The word put where the fetch reads is the word fetched (20_memory.md R53). -/
theorem putFetchWord_fetchWord {s : State} (hs : s.mem.wf = true) (w : Word) : (s.putFetchWord w).fetchWord = w := by
  have hne : (s.pc + 1).toNat % 4096 ≠ s.pc.toNat % 4096 := by
    have := s.pc.isLt
    have h1 : (1 : Word).toNat = 1 := rfl
    rw [BitVec.toNat_add, h1]; omega
  have h1 : ((s.putFetchWord w).memRead s.pc.toNat) = highByte w := by
    rw [putFetchWord, memWrite_memRead (memWrite_wf hs _ _), if_neg (Ne.symm hne), memWrite_memRead hs, if_pos rfl]
  have h2 : ((s.putFetchWord w).memRead (s.pc + 1).toNat) = lowByte w := by
    rw [putFetchWord, memWrite_memRead (memWrite_wf hs _ _), if_pos rfl]
  have hp : (s.putFetchWord w).pc = s.pc := rfl
  rw [fetchWord, hp, h1, h2, wordOfBytes_split]

end State

/-! ## The framebuffer -/

namespace Framebuffer

@[simp] theorem blank_cell (r : Fin 32) (c : Fin 64) : Framebuffer.blank.cell r c = false := by
  simp [blank, cell]

/-- A cell written, and every other as before (10_state.md R30). -/
theorem setCell_cell (fb : Framebuffer) (r r' : Fin 32) (c c' : Fin 64) (b : Bool) :
    (fb.setCell r c b).cell r' c' = if r' = r ∧ c' = c then b else fb.cell r' c' := by
  simp only [setCell, cell, Vector.getElem_set, Fin.ext_iff]
  by_cases hr : r.val = r'.val
  · by_cases hc : c.val = c'.val
    · simp [hr, hc]
    · simp [hr, hc, Ne.symm hc]
  · simp [hr, Ne.symm hr]

/-- Two framebuffers with equal cells are equal. -/
theorem ext_cell {f g : Framebuffer} (h : ∀ r c, f.cell r c = g.cell r c) : f = g := by
  apply Vector.ext
  intro r hr
  apply Vector.ext
  intro c hc
  exact h ⟨r, hr⟩ ⟨c, hc⟩

/-- `fb[row * 64 + col]` is the cell at that row and column (R30). -/
theorem linear_eq_cell (fb : Framebuffer) (r : Fin 32) (c : Fin 64) :
    fb.linear ⟨r.val * 64 + c.val, by omega⟩ = fb.cell r c := by
  have h1 : (r.val * 64 + c.val) / 64 = r.val := by omega
  have h2 : (r.val * 64 + c.val) % 64 = c.val := by omega
  simp only [linear, h1, h2]

end Framebuffer

/-- A toggled cell changes and no other does; the collision is set when it was on (41_display.md R101). -/
theorem Canvas.toggle_cell (a : Canvas) (r r' : Fin 32) (c c' : Fin 64) :
    (a.toggle r c).fb.cell r' c' = (a.fb.cell r' c' ^^ decide (r' = r ∧ c' = c)) := by
  simp only [Canvas.toggle, Framebuffer.setCell_cell]
  by_cases h : r' = r ∧ c' = c
  · obtain ⟨rfl, rfl⟩ := h; simp
  · simp [h]

theorem Canvas.toggle_collision (a : Canvas) (r : Fin 32) (c : Fin 64) :
    (a.toggle r c).collision = (a.collision || a.fb.cell r c) := rfl

/-- Toggling a list of different cells: each listed cell changes and no other, and the collision is set when a listed one
was on before (R101: "one sprite never covers the same cell twice", R103). -/
theorem Canvas.foldl_toggle : ∀ (ps : List (Fin 32 × Fin 64)), ps.Nodup → ∀ a : Canvas,
    (∀ r c, (ps.foldl (fun a p => a.toggle p.1 p.2) a).fb.cell r c = (a.fb.cell r c ^^ decide ((r, c) ∈ ps))) ∧
    (ps.foldl (fun a p => a.toggle p.1 p.2) a).collision = (a.collision || ps.any (fun p => a.fb.cell p.1 p.2))
  | [], _, a => by simp
  | p :: ps, hn, a => by
    obtain ⟨hp, hps⟩ := List.nodup_cons.1 hn
    obtain ⟨h1, h2⟩ := Canvas.foldl_toggle ps hps (a.toggle p.1 p.2)
    constructor
    · intro r c
      rw [List.foldl_cons, h1, Canvas.toggle_cell]
      by_cases hq : (r, c) = p
      · subst hq; simp [hp]
      · have : ¬ (r = p.1 ∧ c = p.2) := fun h => hq (Prod.ext h.1 h.2)
        simp [this, hq]
    · rw [List.foldl_cons, h2, Canvas.toggle_collision, List.any_cons, Bool.or_assoc]
      have : ps.any (fun q => (a.toggle p.1 p.2).fb.cell q.1 q.2) = ps.any (fun q => a.fb.cell q.1 q.2) := by
        rw [Bool.eq_iff_iff, List.any_eq_true, List.any_eq_true]
        refine exists_congr fun q => and_congr_right fun hq => ?_
        have hne : ¬ (q.1 = p.1 ∧ q.2 = p.2) := fun h => hp (Prod.ext h.1 h.2 ▸ hq)
        simp [Canvas.toggle_cell, hne]
      rw [this]

/-! ## Registers 0 to X -/

/-- The registers a block transfer moves are those up to X (45_index_memory.md R204). -/
theorem mem_regsUpTo (x q : Reg) : q ∈ regsUpTo x ↔ q ≤ x := by
  simp only [regsUpTo, List.mem_take_iff_getElem, List.length_finRange]
  constructor
  · rintro ⟨n, hn, e⟩
    have : n = q.val := by simpa [Fin.ext_iff] using e
    rw [Fin.le_def]; omega
  · intro h
    rw [Fin.le_def] at h
    exact ⟨q.val, by omega, by simp⟩

@[simp] theorem regsUpTo_length (x : Reg) : (regsUpTo x).length = x.val + 1 := by
  simp [regsUpTo]

@[simp] theorem valuesUpTo_length (s : State) (x : Reg) : (s.valuesUpTo x).length = x.val + 1 := by
  simp [State.valuesUpTo]

/-- Value `j` of a block store is register `j`. -/
theorem valuesUpTo_getElem (s : State) (x : Reg) (j : Nat) (h : j < (s.valuesUpTo x).length) :
    (s.valuesUpTo x)[j] = s.V ⟨j, by simp at h; omega⟩ := by
  simp [State.valuesUpTo, regsUpTo]

/-- Registers loaded one after another from a function of their numbers: each listed one holds its value, every other is
as before, and nothing but the registers changes. -/
theorem foldl_setV (f : Reg → Byte) : ∀ (rs : List Reg) (s : State),
    (∀ q, (rs.foldl (fun t r => t.setV r (f r)) s).V q = if q ∈ rs then f q else s.V q) ∧
    rs.foldl (fun t r => t.setV r (f r)) s = { s with v := (rs.foldl (fun t r => t.setV r (f r)) s).v }
  | [], s => ⟨fun _ => rfl, rfl⟩
  | r :: rs, s => by
    obtain ⟨h1, h2⟩ := foldl_setV f rs (s.setV r (f r))
    refine ⟨fun q => ?_, ?_⟩
    · rw [List.foldl_cons, h1]
      by_cases hq : q = r
      · subst hq; simp
      · simp [hq]
    · rw [List.foldl_cons]
      exact h2

/-- The operand NNN has the value of the 12-bit field (30_encoding.md R73). -/
@[simp] theorem addrOperand_toNat (nnn : BitVec 12) : (addrOperand nnn).toNat = nnn.toNat := by
  have := nnn.isLt
  simp only [addrOperand, BitVec.toNat_setWidth]; omega

@[simp] theorem wideV_toNat (s : State) (r : Reg) : (s.wideV r).toNat = (s.V r).toNat := by
  have := (s.V r).isLt
  simp only [State.wideV, BitVec.toNat_setWidth]; omega

/-- A timer counts down by one and stays at 0 (60_exceptions.md R243). -/
theorem tickDown_toNat (t : Byte) : (tickDown t).toNat = t.toNat - 1 := by
  have := t.isLt
  unfold tickDown
  split
  · next h => simp [h]
  · next h =>
    have : t.toNat ≠ 0 := fun e => h (BitVec.eq_of_toNat_eq (by simpa using e))
    have h1 : (1 : Byte).toNat = 1 := rfl
    rw [BitVec.toNat_sub, h1]; omega

end Sys2Proof.Machine
end

