-- ==== Sys2Proof/Laws/Cycle.lean ====
section
/-! SUPPORT. What a step can do, said once (30_encoding.md R81): every invariant of the step is a case analysis on it. -/

namespace Sys2Proof.Machine

/-- The end of a cycle: the tick, or nothing after a fault (R235). -/
theorem endCycle_of_halted {s : State} (h : s.halted = true) : s.endCycle = s := by simp [State.endCycle, h]

theorem endCycle_of_running {s : State} (h : s.halted = false) : s.endCycle = s.timerTick := by
  simp [State.endCycle, h]

theorem finishCycle_eq_next {d : Decoded} {s : State} {r : Host.Outcome State Fault Refusal} {t : State} {o : Outputs} :
    finishCycle d s r = .next (t, o) ↔ ∃ u, r = .next u ∧ t = u.endCycle ∧ o = outputsOf d s u := by
  cases r with
  | next u =>
    simp only [finishCycle, Host.Outcome.next.injEq, Prod.mk.injEq]
    exact ⟨fun h => ⟨u, rfl, h.1.symm, h.2.symm⟩, fun ⟨v, h, e, e'⟩ => by rw [e, e', ← h]; exact ⟨rfl, rfl⟩⟩
  | fault r => simp [finishCycle]
  | refused r => simp [finishCycle]

/-- A step's state is its cycle's. -/
theorem step_eq_next {s t : State} : step s = .next t ↔ ∃ o, cycle s = .next (t, o) := by
  unfold step
  cases cycle s with
  | next p => cases p; simp [stateOf]
  | fault r => exact nomatch r
  | refused r => simp [stateOf]

theorem step_of_cycle {s t : State} {o : Outputs} (h : cycle s = .next (t, o)) : step s = .next t :=
  step_eq_next.2 ⟨o, h⟩

/-- A halted core's cycle (60_exceptions.md R236). -/
theorem cycle_of_halted {s : State} (h : s.halted = true) : cycle s = .next (s, .quiet) := by simp [cycle, h]

/-- A running core's cycle that decodes an instruction. -/
theorem cycle_of_instr {s u : State} {i : Instr} (h : s.halted = false) (hd : decodeWord s.fetchWord = .instr i)
    (hu : exec i s.beginCycle = .next u) : cycle s = .next (u.endCycle, outputsOf (.instr i) s u) := by
  simp [cycle, h, hd, execDecoded, hu, finishCycle]

/-- A running core's cycle that fetches an Unknown word. -/
theorem cycle_of_unknown {s : State} {why : UnknownWord} (h : s.halted = false)
    (hd : decodeWord s.fetchWord = .unknown why) :
    cycle s = .next (s.beginCycle.advance.timerTick, ⟨s.tickBeeps, some (s.fetchWord, s.pc), false⟩) := by
  have ha : s.beginCycle.advance.halted = false := h
  simp only [cycle, h, hd, execDecoded, execUnknown, finishCycle, outputsOf, ha, endCycle_of_running ha, unknownReport,
    stalledBy, Bool.false_eq_true, if_false]
  rfl

/-- A cycle that answers is a halted core's, or an instruction run, or an Unknown word reported. -/
theorem cycle_cases {s t : State} {o : Outputs} (h : cycle s = .next (t, o)) :
    (s.halted = true ∧ t = s ∧ o = .quiet) ∨
    (s.halted = false ∧ ∃ i u, decodeWord s.fetchWord = .instr i ∧ exec i s.beginCycle = .next u ∧ t = u.endCycle ∧
      o = outputsOf (.instr i) s u) ∨
    (s.halted = false ∧ ∃ why, decodeWord s.fetchWord = .unknown why ∧ t = s.beginCycle.advance.timerTick ∧
      o = ⟨s.tickBeeps, some (s.fetchWord, s.pc), false⟩) := by
  cases hh : s.halted with
  | true =>
    rw [cycle_of_halted hh] at h
    cases h
    exact .inl ⟨rfl, rfl, rfl⟩
  | false =>
    cases hd : decodeWord s.fetchWord with
    | instr i =>
      simp only [cycle, hh, hd, execDecoded, Bool.false_eq_true, if_false] at h
      obtain ⟨u, hu, ht, ho⟩ := finishCycle_eq_next.1 h
      exact .inr (.inl ⟨rfl, i, u, rfl, hu, ht, ho⟩)
    | unknown why =>
      rw [cycle_of_unknown hh hd] at h
      cases h
      exact .inr (.inr ⟨rfl, why, rfl, rfl, rfl⟩)

/-- The same of a step. -/
theorem step_cases {s t : State} (h : step s = .next t) :
    (s.halted = true ∧ t = s) ∨
    (s.halted = false ∧ ∃ i u, decodeWord s.fetchWord = .instr i ∧ exec i s.beginCycle = .next u ∧ t = u.endCycle) ∨
    (s.halted = false ∧ ∃ why, decodeWord s.fetchWord = .unknown why ∧ t = s.beginCycle.advance.timerTick) := by
  obtain ⟨o, h⟩ := step_eq_next.1 h
  obtain ⟨hh, ht, -⟩ | ⟨hh, i, u, hd, hu, ht, -⟩ | ⟨hh, why, hd, ht, -⟩ := cycle_cases h
  · exact .inl ⟨hh, ht⟩
  · exact .inr (.inl ⟨hh, i, u, hd, hu, ht⟩)
  · exact .inr (.inr ⟨hh, why, hd, ht⟩)

/-- The end of a run says what R256 says: no fault, and `1NNN` at address NNN. -/
theorem endOfRun_iff {s : State} :
    endOfRun s = true ↔
      s.halted = false ∧ ∃ nnn : BitVec 12, decodeWord s.fetchWord = .instr (.jp nnn) ∧ s.pc = addrOperand nnn := by
  simp only [endOfRun, Bool.and_eq_true, Bool.not_eq_true', decide_eq_true_eq, and_assoc]
  refine and_congr_right fun _ => ⟨fun ⟨hlt, hd⟩ => ⟨_, hd, ?_⟩, fun ⟨nnn, hd, hpc⟩ => ?_⟩
  · apply BitVec.eq_of_toNat_eq
    simp only [addrOperand_toNat, BitVec.toNat_setWidth]
    omega
  · have hn : s.pc.toNat = nnn.toNat := by rw [hpc, addrOperand_toNat]
    have hlt := nnn.isLt
    refine ⟨by omega, ?_⟩
    rw [hd, show s.pc.setWidth 12 = nnn from BitVec.eq_of_toNat_eq (by simp only [BitVec.toNat_setWidth]; omega)]

/-- One cycle at the end of a run: the jump comes back to its own address, and the timers tick. -/
theorem cycle_of_endOfRun {s : State} (h : endOfRun s = true) :
    cycle s = .next (s.beginCycle.timerTick, ⟨s.tickBeeps, none, false⟩) := by
  obtain ⟨hh, nnn, hd, hpc⟩ := endOfRun_iff.1 h
  have hu : exec (.jp nnn) s.beginCycle = .next s.beginCycle := by
    simp only [exec, execJp, State.setPc, ← hpc]
    rfl
  have hb : s.beginCycle.halted = false := hh
  rw [cycle_of_instr hh hd hu, endCycle_of_running hb]
  simp only [outputsOf, hb, unknownReport, stalledBy, waitsForKey, Bool.false_and, Bool.false_eq_true, if_false]
  rfl

/-- Running cycles is the host interface's run of this machine. -/
theorem core_run_eq : ∀ (k : Nat) (s : State), Host.Core.run Sys2Proof.core k s = runCycles k s
  | 0, _ => rfl
  | k + 1, s => by
    cases h : step s with
    | next t =>
      have h' : Sys2Proof.core.step s = .next t := h
      simp only [Host.Core.run, runCycles, h, h']
      exact core_run_eq k t
    | fault r => exact nomatch r
    | refused r =>
      have h' : Sys2Proof.core.step s = .refused r := h
      simp only [Host.Core.run, runCycles, h, h']
      rfl

theorem runCycles_succ (k : Nat) {s t : State} (h : step s = .next t) : runCycles (k + 1) s = runCycles k t := by
  simp only [runCycles, h]

end Sys2Proof.Machine
end

