-- ==== Sys2Proof/Laws/PerInstr.lean ====
section
/-! SUPPORT. Statements about every instruction as syntax, one lemma per constructor (LAWS.json). -/

/-- The encoder puts a well-formed instruction in its own row of the opcode map (30_encoding.md R75): the bits the row
examines are the row's pattern. -/
def Sys2Proof.Laws.EncodedInRow.Statement (i : Sys2Proof.Instr) : Prop :=
  i.WellFormed → Sys2Proof.encode i &&& i.row.mask = i.row.pattern

namespace Sys2Proof.Laws.EncodedInRow

/-- A packed word of the formats `NNN` is of its family. -/
theorem packNNN_row {f : Nat} (hf : f < 16) (nnn : BitVec 12) :
    packNNN f nnn &&& 0xF000#16 = BitVec.ofNat 16 (f * 4096) := by
  have := nnn.isLt
  rw [and_F000_eq_iff _ hf, fieldF_eq, packNNN_toNat hf]; omega

theorem packXKK_family {f : Nat} (hf : f < 16) (x : Reg) (kk : Byte) :
    packXKK f x kk.toNat &&& 0xF000#16 = BitVec.ofNat 16 (f * 4096) := by
  have := kk.isLt
  have := x.isLt
  rw [and_F000_eq_iff _ hf, fieldF_eq, packXKK_toNat hf kk.isLt]; omega

theorem packXKK_row {f k : Nat} (hf : f < 16) (hk : k < 256) (x : Reg) :
    packXKK f x k &&& 0xF0FF#16 = BitVec.ofNat 16 (f * 4096 + k) := by
  have := x.isLt
  rw [and_F0FF_eq_iff _ hf hk, fieldF_eq, fieldLow_eq, packXKK_toNat hf hk]; omega

theorem packXYN_family {f n : Nat} (hf : f < 16) (hn : n < 16) (x y : Reg) :
    packXYN f x y n &&& 0xF000#16 = BitVec.ofNat 16 (f * 4096) := by
  have := x.isLt
  have := y.isLt
  rw [and_F000_eq_iff _ hf, fieldF_eq, packXYN_toNat hf hn]; omega

theorem packXYN_row {f n : Nat} (hf : f < 16) (hn : n < 16) (x y : Reg) :
    packXYN f x y n &&& 0xF00F#16 = BitVec.ofNat 16 (f * 4096 + n) := by
  have := x.isLt
  have := y.isLt
  rw [and_F00F_eq_iff _ hf hn, fieldF_eq, fieldN_eq, packXYN_toNat hf hn]; omega

theorem cls : Statement .cls := fun _ => packXKK_row (by decide) (by decide) 0
theorem ret : Statement .ret := fun _ => packXKK_row (by decide) (by decide) 0
theorem jp (nnn : BitVec 12) : Statement (.jp nnn) := fun _ => packNNN_row (by decide) nnn
theorem call (nnn : BitVec 12) : Statement (.call nnn) := fun _ => packNNN_row (by decide) nnn
theorem seByte (x : Reg) (kk : Byte) : Statement (.seByte x kk) := fun _ => packXKK_family (by decide) x kk
theorem sneByte (x : Reg) (kk : Byte) : Statement (.sneByte x kk) := fun _ => packXKK_family (by decide) x kk
theorem seReg (x y : Reg) : Statement (.seReg x y) := fun _ => packXYN_family (by decide) (by decide) x y
theorem ldByte (x : Reg) (kk : Byte) : Statement (.ldByte x kk) := fun _ => packXKK_family (by decide) x kk
theorem addByte (x : Reg) (kk : Byte) : Statement (.addByte x kk) := fun _ => packXKK_family (by decide) x kk
theorem ldReg (x y : Reg) : Statement (.ldReg x y) := fun _ => packXYN_row (by decide) (by decide) x y
theorem orReg (x y : Reg) : Statement (.orReg x y) := fun _ => packXYN_row (by decide) (by decide) x y
theorem andReg (x y : Reg) : Statement (.andReg x y) := fun _ => packXYN_row (by decide) (by decide) x y
theorem xorReg (x y : Reg) : Statement (.xorReg x y) := fun _ => packXYN_row (by decide) (by decide) x y
theorem addReg (x y : Reg) : Statement (.addReg x y) := fun _ => packXYN_row (by decide) (by decide) x y
theorem subReg (x y : Reg) : Statement (.subReg x y) := fun _ => packXYN_row (by decide) (by decide) x y
theorem shr (x y : Reg) : Statement (.shr x y) := fun _ => packXYN_row (by decide) (by decide) x y
theorem subnReg (x y : Reg) : Statement (.subnReg x y) := fun _ => packXYN_row (by decide) (by decide) x y
theorem shl (x y : Reg) : Statement (.shl x y) := fun _ => packXYN_row (by decide) (by decide) x y
theorem sneReg (x y : Reg) : Statement (.sneReg x y) := fun _ => packXYN_family (by decide) (by decide) x y
theorem ldI (nnn : BitVec 12) : Statement (.ldI nnn) := fun _ => packNNN_row (by decide) nnn
theorem jpV0 (nnn : BitVec 12) : Statement (.jpV0 nnn) := fun _ => packNNN_row (by decide) nnn
theorem rnd (x : Reg) (kk : Byte) : Statement (.rnd x kk) := fun _ => packXKK_family (by decide) x kk
theorem drw (x y : Reg) (n : Nat) : Statement (.drw x y n) :=
  fun h => packXYN_family (by decide) (by simpa [Instr.WellFormed, Instr.fits] using h) x y
theorem skp (x : Reg) : Statement (.skp x) := fun _ => packXKK_row (by decide) (by decide) x
theorem sknp (x : Reg) : Statement (.sknp x) := fun _ => packXKK_row (by decide) (by decide) x
theorem ldVxDt (x : Reg) : Statement (.ldVxDt x) := fun _ => packXKK_row (by decide) (by decide) x
theorem ldVxK (x : Reg) : Statement (.ldVxK x) := fun _ => packXKK_row (by decide) (by decide) x
theorem ldDtVx (x : Reg) : Statement (.ldDtVx x) := fun _ => packXKK_row (by decide) (by decide) x
theorem ldStVx (x : Reg) : Statement (.ldStVx x) := fun _ => packXKK_row (by decide) (by decide) x
theorem addI (x : Reg) : Statement (.addI x) := fun _ => packXKK_row (by decide) (by decide) x
theorem ldF (x : Reg) : Statement (.ldF x) := fun _ => packXKK_row (by decide) (by decide) x
theorem ldB (x : Reg) : Statement (.ldB x) := fun _ => packXKK_row (by decide) (by decide) x
theorem storeRegs (x : Reg) : Statement (.storeRegs x) := fun _ => packXKK_row (by decide) (by decide) x
theorem loadRegs (x : Reg) : Statement (.loadRegs x) := fun _ => packXKK_row (by decide) (by decide) x

end Sys2Proof.Laws.EncodedInRow
end

