-- ==== Sys2Proof/Tests/Slice0.lean ====
section
/-! SUPPORT. Small tests, their expected results from spec/ (the words from 30_encoding.md R71 and R75, the vectors from
95_test_vectors.md parts L1 and L2), and a witness for every statement that has hypotheses. -/

namespace Sys2Proof.Tests

open Sys2Proof.Machine

/-! ## Helpers -/

/-- The next state of an outcome (reset, where there is none). -/
def after : Host.Outcome State Fault Refusal → State
  | .next t => t
  | .fault _ => State.reset
  | .refused _ => State.reset

/-- `s` with one word at its pc. -/
def ready (w : Nat) (s : State) : State := s.withFetchWord 16 w

/-- The state after one cycle that runs the word `w` from `s`. -/
def ran (w : Nat) (s : State) : State := after (step (ready w s))

/-- The outputs of that cycle. -/
def outs (w : Nat) (s : State) : Outputs :=
  match cycle (ready w s) with
  | .next p => p.2
  | .fault _ => .quiet
  | .refused _ => .quiet

/-- Reset with two registers set. -/
def with2 (x : Reg) (a : Byte) (y : Reg) (b : Byte) : State := (State.reset.setV x a).setV y b

/-- Reset with I at an address. -/
def atI (a : Word) : State := State.reset.setI a

/-- Reset with all keys up but those listed. -/
def keys (ks : List (Fin 16)) : State :=
  State.reset.setKeypad (Vector.ofFn fun k => decide (k ∈ ks))

/-! ## Well-formedness: the one check, refusing an ill-formed term (30_encoding.md R79) -/

theorem test_wellFormed_refuses_sixteen_rows : ¬ (Instr.drw 0 0 16).WellFormed := by decide
theorem test_wellFormed_accepts_fifteen_rows : (Instr.drw 0 0 15).WellFormed := by decide

/-! ## Decoding, words written out bit by bit from R71 and R75 -/

theorem test_decode_display :
    decodeWord 0b0000000011100000#16 = .instr .cls ∧
    decodeWord 0b1101_0001_0010_0101#16 = .instr (.drw 1 2 5) := by decide

theorem test_decode_control :
    decodeWord 0b0000_0000_1110_1110#16 = .instr .ret ∧
    decodeWord 0b0001_1010_1011_1100#16 = .instr (.jp 0xABC#12) ∧
    decodeWord 0b0010_0011_0000_0001#16 = .instr (.call 0x301#12) ∧
    decodeWord 0b0011_0001_0100_0010#16 = .instr (.seByte 1 0x42#8) ∧
    decodeWord 0b0100_0001_0100_0010#16 = .instr (.sneByte 1 0x42#8) ∧
    decodeWord 0b0101_0010_0011_0000#16 = .instr (.seReg 2 3) ∧
    decodeWord 0b1001_0010_0011_0000#16 = .instr (.sneReg 2 3) ∧
    decodeWord 0b1011_0011_0000_0001#16 = .instr (.jpV0 0x301#12) := by decide

theorem test_decode_alu :
    decodeWord 0b0110_0000_0000_1010#16 = .instr (.ldByte 0 0x0A#8) ∧
    decodeWord 0b0111_0011_0000_0010#16 = .instr (.addByte 3 0x02#8) ∧
    decodeWord 0b1000_0001_0010_0000#16 = .instr (.ldReg 1 2) ∧
    decodeWord 0b1000_0001_0010_0001#16 = .instr (.orReg 1 2) ∧
    decodeWord 0b1000_0001_0010_0010#16 = .instr (.andReg 1 2) ∧
    decodeWord 0b1000_0001_0010_0011#16 = .instr (.xorReg 1 2) ∧
    decodeWord 0b1000_0001_0010_0100#16 = .instr (.addReg 1 2) ∧
    decodeWord 0b1000_0001_0010_0101#16 = .instr (.subReg 1 2) ∧
    decodeWord 0b1000_0001_0010_0110#16 = .instr (.shr 1 2) ∧
    decodeWord 0b1000_0001_0010_0111#16 = .instr (.subnReg 1 2) ∧
    decodeWord 0b1000_0001_0010_1110#16 = .instr (.shl 1 2) ∧
    decodeWord 0b1100_0101_0000_1111#16 = .instr (.rnd 5 0x0F#8) := by decide

theorem test_decode_keys_timers :
    decodeWord 0b1110_0010_1001_1110#16 = .instr (.skp 2) ∧
    decodeWord 0b1110_0010_1010_0001#16 = .instr (.sknp 2) ∧
    decodeWord 0b1111_0011_0000_0111#16 = .instr (.ldVxDt 3) ∧
    decodeWord 0b1111_0101_0000_1010#16 = .instr (.ldVxK 5) ∧
    decodeWord 0b1111_1010_0001_0101#16 = .instr (.ldDtVx 10) ∧
    decodeWord 0b1111_0011_0001_1000#16 = .instr (.ldStVx 3) := by decide

theorem test_decode_index_memory :
    decodeWord 0b1010_0001_0010_0011#16 = .instr (.ldI 0x123#12) ∧
    decodeWord 0b1111_0010_0001_1110#16 = .instr (.addI 2) ∧
    decodeWord 0b1111_0000_0010_1001#16 = .instr (.ldF 0) ∧
    decodeWord 0b1111_0001_0011_0011#16 = .instr (.ldB 1) ∧
    decodeWord 0b1111_0010_0101_0101#16 = .instr (.storeRegs 2) ∧
    decodeWord 0b1111_0001_0110_0101#16 = .instr (.loadRegs 1) := by decide

/-- L2-0: the Unknown words, and the words whose ignored bits are set. -/
theorem test_decode_unknown_and_ignored :
    [0x0000#16, 0x00E1#16, 0x0123#16].map decodeWord = List.replicate 3 (.unknown .family0) ∧
    [0x8AB8#16, 0x8ABF#16].map decodeWord = List.replicate 2 (.unknown .family8) ∧
    decodeWord 0xE19F#16 = .unknown .familyE ∧
    [0xF1FF#16, 0xFFFF#16].map decodeWord = List.replicate 2 (.unknown .familyF) ∧
    decodeWord 0x01E0#16 = .instr .cls ∧
    decodeWord 0x5121#16 = .instr (.seReg 1 2) ∧
    decodeWord 0x9AB7#16 = .instr (.sneReg 10 11) := by decide

/-- The table's numbering: bit 0 is the least significant bit of the word; the bytes lie high byte first. -/
theorem test_decodeTableWord :
    decodeTableWord 16 0xD125 = some (.drw 1 2 5) ∧ decodeTableWord 16 0x8008 = none ∧
    decodeBytes [0xD1, 0x25, 0x07] = .word (.instr (.drw 1 2 5)) [0x07] ∧ decodeBytes [0xD1] = .tooShort := by decide

/-! ## Display (L2-1) -/

theorem test_cls : (ran 0x00E0 (State.reset.setFb (Framebuffer.blank.setCell 3 7 true))).fb.linear 199 = false ∧
    (ran 0x00E0 State.reset).dirty = true := by decide

theorem test_drw_wraps_columns_and_rows :
    let t := ran 0xD012 ((with2 0 63 1 31 |>.setI 0x300).memWrite 0x300 0xC0 |>.memWrite 0x301 0x80)
    t.fb.linear 2047 = true ∧ t.fb.linear 1984 = true ∧ t.fb.linear 63 = true ∧ t.fb.linear 0 = false ∧ t.V 15 = 0 := by
  decide

/-- DF11 with VF = 2: the coordinate is read before VF is written; and a second draw erases and collides. -/
theorem test_drw_flag :
    let s := (State.reset.setV 15 2 |>.setI 0x300).memWrite 0x300 0x80
    (ran 0xDF11 s).fb.linear 2 = true ∧ (ran 0xDF11 s).V 15 = 0 ∧
    (ran 0xDF11 (s.setFb (Framebuffer.blank.setCell 0 2 true))).V 15 = 1 := by decide

/-! ## Control flow (L2-2) -/

theorem test_call_and_ret :
    (ran 0x2300 State.reset).pc = 0x300 ∧ (ran 0x2300 State.reset).sp = 1 ∧ (ran 0x2300 State.reset).stack[0] = 0x200 ∧
    (ran 0x00EE (ran 0x2300 State.reset)).pc = 0x202 := by decide

theorem test_stack_faults :
    (ran 0x00EE State.reset).faultCause = .stackUnderflow ∧ (ran 0x00EE State.reset).faultPc = 0x200 ∧
    (ran 0x00EE State.reset).faultWord = 0x00EE ∧
    (ran 0x2300 { State.reset with sp := 16 }).faultCause = .stackOverflow ∧
    (ran 0x2300 { State.reset with sp := 16 }).pc = 0x200 := by decide

theorem test_jumps :
    (ran 0x1ABC State.reset).pc = 0xABC ∧ (ran 0xBFFF (State.reset.setV 0 0xFF)).pc = 0x10FE := by decide

theorem test_byte_skips :
    (ran 0x3142 (State.reset.setV 1 0x42)).pc = 0x204 ∧ (ran 0x3143 (State.reset.setV 1 0x42)).pc = 0x202 ∧
    (ran 0x4142 (State.reset.setV 1 0x42)).pc = 0x202 ∧ (ran 0x4143 (State.reset.setV 1 0x42)).pc = 0x204 := by decide

theorem test_register_skips :
    (ran 0x5231 (with2 2 7 3 7)).pc = 0x204 ∧ (ran 0x5230 (with2 2 7 3 8)).pc = 0x202 ∧
    (ran 0x9230 (with2 2 7 3 8)).pc = 0x204 ∧ (ran 0x9220 State.reset).pc = 0x202 := by decide

/-- pc = FFFE, V1 = 0, `3100` at M[0xFFE]: pc = 0002; and an odd pc fetches M[0xFFF] and M[0x000] (font byte F0). -/
theorem test_pc_wraps :
    (ran 0x3100 (State.reset.setPc 0xFFFE)).pc = 0x0002 ∧
    ((State.reset.setPc 0x0FFF).memWrite 0xFFF 0x61).fetchWord = 0x61F0 := by decide

/-! ## ALU (L2-3) -/

theorem test_loads_and_add_byte :
    (ran 0x600A State.reset).V 0 = 0x0A ∧ (ran 0x8120 (State.reset.setV 2 0x5A)).V 1 = 0x5A ∧
    (ran 0x7302 (with2 3 0xFF 15 9)).V 3 = 0x01 ∧ (ran 0x7302 (with2 3 0xFF 15 9)).V 15 = 9 := by decide

theorem test_logic :
    (ran 0x8121 (with2 1 0xF0 2 0x0F)).V 1 = 0xFF ∧ (ran 0x8122 (with2 1 0xF0 2 0x3C)).V 1 = 0x30 ∧
    (ran 0x8123 (with2 1 0xFF 2 0x0F)).V 1 = 0xF0 ∧ (ran 0x8113 (State.reset.setV 1 0x55)).V 1 = 0 := by decide

theorem test_add_reg :
    (ran 0x8124 (with2 1 0xFF 2 1)).V 1 = 0 ∧ (ran 0x8124 (with2 1 0xFF 2 1)).V 15 = 1 ∧
    (ran 0x80F4 (with2 0 0x10 15 0xF0)).V 0 = 0 ∧ (ran 0x80F4 (with2 0 0x10 15 0xF0)).V 15 = 1 ∧
    (ran 0x8FF4 (State.reset.setV 15 0x40)).V 15 = 0 := by decide

theorem test_sub :
    (ran 0x8125 (with2 1 3 2 5)).V 1 = 0xFE ∧ (ran 0x8125 (with2 1 3 2 5)).V 15 = 0 ∧
    (ran 0x8125 (with2 1 7 2 7)).V 15 = 0 ∧ (ran 0x8F15 (with2 15 5 1 3)).V 15 = 1 ∧
    (ran 0x8127 (with2 1 3 2 5)).V 1 = 2 ∧ (ran 0x8127 (with2 1 3 2 5)).V 15 = 1 ∧
    (ran 0x80F7 (with2 0 3 15 5)).V 0 = 2 := by decide

theorem test_shifts :
    (ran 0x8126 (with2 1 0x80 2 1)).V 1 = 0x40 ∧ (ran 0x8126 (with2 1 0x80 2 1)).V 15 = 0 ∧
    (ran 0x8F06 (State.reset.setV 15 3)).V 15 = 1 ∧
    (ran 0x810E (State.reset.setV 1 0x81)).V 1 = 0x02 ∧ (ran 0x810E (State.reset.setV 1 0x81)).V 15 = 1 := by decide

theorem test_rnd_of_AB (h : Config.rnd 0 = 0xAB) : (ran 0xC50F State.reset).V 5 = 0x0B := by
  change Config.rnd 0 &&& 0x0F#8 = 0x0B
  rw [h]; decide

theorem test_rnd_masked_by_zero : (ran 0xC500 State.reset).V 5 = 0 := by
  change Config.rnd 0 &&& 0#8 = 0
  simp

/-! ## Keys and timers (L2-4) -/

theorem test_key_skips :
    (ran 0xE29E ((keys [7]).setV 2 7)).pc = 0x204 ∧ (ran 0xE29E ((keys [8]).setV 2 7)).pc = 0x202 ∧
    (ran 0xE2A1 ((keys [8]).setV 2 7)).pc = 0x204 ∧ (ran 0xE2A1 ((keys [7]).setV 2 7)).pc = 0x202 := by decide

theorem test_key_index_fault :
    (ran 0xE29E (State.reset.setV 2 0x10)).faultCause = .keyIndexRange ∧
    (ran 0xE29E (State.reset.setV 2 0x10)).faultWord = 0xE29E ∧ (ran 0xE29E (State.reset.setV 2 0x10)).pc = 0x200 := by
  decide

theorem test_wait_for_key :
    (ran 0xF50A (State.reset.setDt 3)).pc = 0x200 ∧ (outs 0xF50A (State.reset.setDt 3)).stalled = true ∧
    (ran 0xF50A (State.reset.setDt 3)).dt = 2 ∧ (ran 0xF50A (keys [3, 9])).V 5 = 3 ∧
    (ran 0xF50A (keys [3, 9])).pc = 0x202 := by decide

theorem test_delay_timer :
    (ran 0xF307 (State.reset.setDt 5)).V 3 = 5 ∧ (ran 0xF307 (State.reset.setDt 5)).dt = 4 ∧
    (ran 0xFA15 (State.reset.setV 10 3)).dt = 2 ∧ (ran 0xFA15 State.reset).dt = 0 := by decide

theorem test_sound_timer :
    (ran 0xF318 (State.reset.setV 3 1)).st = 0 ∧ (outs 0xF318 (State.reset.setV 3 1)).beep = true ∧
    (outs 0xF318 State.reset).beep = false ∧ (outs 0x00E0 (State.reset.setSt 2)).beep = false := by decide

/-- ST = 01 and a faulting cycle: no tick, no beep. -/
theorem test_fault_ticks_nothing :
    (ran 0x00EE (State.reset.setSt 1)).st = 1 ∧ (outs 0x00EE (State.reset.setSt 1)).beep = false := by decide

/-! ## Index and memory (L2-5) -/

theorem test_index_loads :
    (ran 0xA123 State.reset).i = 0x123 ∧ (ran 0xF029 (State.reset.setV 0 0xFF)).i = 0x4FB := by decide

theorem test_add_i :
    (ran 0xF21E ((atI 0xFFFF).setV 2 1)).i = 0 ∧ (ran 0xF21E ((atI 0xFFFF).setV 2 1)).V 15 = 1 ∧
    (ran 0xF21E ((atI 0xFFE).setV 2 1)).V 15 = 0 ∧ (ran 0xFF1E ((atI 0xFF0).setV 15 0x10)).i = 0x1000 ∧
    (ran 0xFF1E ((atI 0xFF0).setV 15 0x10)).V 15 = 1 := by decide

theorem test_bcd :
    (ran 0xF133 ((atI 0xFFF).setV 1 0xEA)).memRead 0xFFF = 2 ∧ (ran 0xF133 ((atI 0xFFF).setV 1 0xEA)).memRead 0 = 3 ∧
    (ran 0xF133 ((atI 0xFFF).setV 1 0xEA)).memRead 1 = 4 ∧ (ran 0xF133 ((atI 0xFFF).setV 1 0xEA)).i = 0xFFF := by decide

theorem test_store_registers :
    let t := ran 0xF255 (((atI 0xFFE).setV 0 0x11).setV 1 0x22 |>.setV 2 0x33)
    t.memRead 0xFFE = 0x11 ∧ t.memRead 0xFFF = 0x22 ∧ t.memRead 0 = 0x33 ∧ t.i = 0x1001 := by decide

theorem test_load_registers :
    let t := ran 0xF165 (((atI 0x401).memWrite 0x401 0x22).memWrite 0x402 0x33)
    t.V 0 = 0x22 ∧ t.V 1 = 0x33 ∧ t.V 2 = 0 ∧ t.i = 0x403 := by decide

/-! ## Unknown words, halt (L2-6), the loader and reset -/

theorem test_unknown_word :
    let t := ran 0x8008 ((State.reset.setPc 0x300).setDt 2)
    (outs 0x8008 (State.reset.setPc 0x300)).unknownOpcode = some (0x8008, 0x300) ∧ t.pc = 0x302 ∧ t.dt = 1 := by decide

theorem test_halted_core_stays :
    let s := ran 0x00EE (State.reset.setDt 3)
    (after (step s)).pc = 0x200 ∧ (after (step s)).dt = 3 ∧ (after (step s)).faultCause = .stackUnderflow := by decide

/-- L1-3's program is loaded at 0x200, high byte first; a store that the reset contents already hold lists nothing. -/
theorem test_loader :
    (State.reset.hostLoad [0x60, 0x0A]).1.fetchWord = 0x600A ∧ (State.reset.memWrite 0 0xF0).mem = [] := by decide

/-- L1-11: glyph A of the default font is at 0x032. -/
theorem test_font : (List.range 5).map (fun j => State.reset.memRead (0x32 + j)) = [0xF0, 0x90, 0xF0, 0x90, 0x90] := by
  decide

/-- P2's end (95_test_vectors.md L3): `1210` at 0x210.  No end: the same word elsewhere, at 0x1210 (the jump leaves it for
0x210), and a halted core at it. -/
theorem test_endOfRun :
    endOfRun (ready 0x1210 (State.reset.setPc 0x210)) = true ∧ endOfRun (ready 0x1210 State.reset) = false ∧
    endOfRun (ready 0x1210 (State.reset.setPc 0x1210)) = false ∧
    endOfRun ((ready 0x1210 (State.reset.setPc 0x210)).takeFault .stackOverflow) = false := by decide

/-! ## Witnesses: states and operands that meet each statement's hypotheses -/

theorem witness_DecoderFollowsOpcodeMap :
    decodeWord 0x5121#16 = .instr (.seReg 1 2) ∧ 0x9AB7#16 &&& (Instr.sneReg 0 0).row.mask = (Instr.sneReg 0 0).row.pattern := by
  decide

theorem witness_DecodeOfEncodeIsTheInstruction : (Instr.drw 15 0 15).WellFormed ∧ (Instr.drw 0 15 0).WellFormed := by decide

theorem witness_EncodeOfDecodeKeepsUsedBits :
    decodeWord 0x01E0#16 = .instr .cls ∧ decodeWord 0xDFFF#16 = .instr (.drw 15 15 15) := by decide

/-- A normal instruction, and one that raises a fault. -/
theorem witness_StepRunsDecodedInstruction :
    (∃ s t : State, s.faultCause = .none ∧ decodeWord s.fetchWord = .instr (.ldByte 0 10) ∧
      exec (.ldByte 0 10) { s with started := true } = .next t ∧ t.faultCause = .none) ∧
    (∃ s t : State, s.faultCause = .none ∧ decodeWord s.fetchWord = .instr .ret ∧
      exec .ret { s with started := true } = .next t ∧ t.faultCause ≠ .none) :=
  ⟨⟨ready 0x600A State.reset, _, by decide, by decide, rfl, by decide⟩,
   ⟨ready 0x00EE State.reset, _, by decide, by decide, rfl, by decide⟩⟩

theorem witness_UnknownWordReportedAndSkipped :
    (ready 0x8008 State.reset).faultCause = .none ∧
    decodeWord (ready 0x8008 State.reset).fetchWord = .unknown .family8 := by decide

/-- The end of a run, at the lowest address and at the highest whose two bytes do not wrap. -/
theorem witness_EveryCycleReturnsAState :
    endOfRun (ready 0x1000 (State.reset.setPc 0)) = true ∧ endOfRun (ready 0x1FFE (State.reset.setPc 0xFFE)) = true := by
  decide

theorem witness_HaltedCoreStaysAsItIs : (ran 0x00EE State.reset).faultCause ≠ .none := by decide

/-- A cycle that writes no timer, one that writes DT, one that writes ST. -/
theorem witness_TimersTickEveryCompletedCycle :
    (∀ w ∈ [0x8008, 0xF115, 0xF118], (ready w State.reset).faultCause = .none ∧
      cycle (ready w State.reset) = .next (ran w State.reset, outs w State.reset) ∧
      (ran w State.reset).faultCause = .none) ∧
    decodeWord (ready 0xF115 State.reset).fetchWord = .instr (.ldDtVx 1) ∧
    decodeWord (ready 0xF118 State.reset).fetchWord = .instr (.ldStVx 1) := by
  refine ⟨fun w h => ?_, by decide, by decide⟩
  simp only [List.mem_cons, List.not_mem_nil, or_false] at h
  rcases h with rfl | rfl | rfl <;> exact ⟨by decide, rfl, by decide⟩

/-- A stalled cycle and one that is not. -/
theorem witness_StalledExactlyWhenWaiting :
    cycle (ready 0xF50A State.reset) = .next (ran 0xF50A State.reset, outs 0xF50A State.reset) ∧ (outs 0xF50A State.reset).stalled = true ∧
    cycle (ready 0xF50A (keys [15])) = .next (ran 0xF50A (keys [15]), outs 0xF50A (keys [15])) ∧
    (outs 0xF50A (keys [15])).stalled = false :=
  ⟨rfl, by decide, rfl, by decide +kernel⟩

theorem witness_UnknownOutputExactlyOnUnknownWords :
    cycle (ready 0xFFFF State.reset) = .next (ran 0xFFFF State.reset, outs 0xFFFF State.reset) ∧
    (outs 0xFFFF State.reset).unknownOpcode = some (0xFFFF, 0x200) ∧
    cycle (ready 0x00E0 State.reset) = .next (ran 0x00E0 State.reset, outs 0x00E0 State.reset) ∧
    (outs 0x00E0 State.reset).unknownOpcode = none :=
  ⟨rfl, by decide, rfl, by decide +kernel⟩

/-- Each of the three faults, and the values next to the conditions, where no fault is raised. -/
theorem witness_FaultsRaisedExactlyOnTheirConditions :
    step (ready 0x2300 { State.reset with sp := 16 }) = .next (ran 0x2300 { State.reset with sp := 16 }) ∧
    (ran 0x2300 { State.reset with sp := 16 }).faultCause = .stackOverflow ∧
    (ran 0x2300 { State.reset with sp := 15 }).faultCause = .none ∧
    step (ready 0x00EE State.reset) = .next (ran 0x00EE State.reset) ∧
    (ran 0x00EE State.reset).faultCause = .stackUnderflow ∧
    (ran 0x00EE { State.reset with sp := 1 }).faultCause = .none ∧
    step (ready 0xE0A1 (State.reset.setV 0 16)) = .next (ran 0xE0A1 (State.reset.setV 0 16)) ∧
    (ran 0xE0A1 (State.reset.setV 0 16)).faultCause = .keyIndexRange ∧
    (ran 0xE0A1 (State.reset.setV 0 15)).faultCause = .none :=
  ⟨rfl, by decide, by decide +kernel, rfl, by decide +kernel, by decide +kernel, rfl, by decide +kernel,
   by decide⟩

theorem witness_FaultingCycleWritesOnlyTheFaultStatus :
    (ready 0x00EE State.reset).faultCause = .none ∧
    cycle (ready 0x00EE State.reset) = .next (ran 0x00EE State.reset, outs 0x00EE State.reset) ∧
    (ran 0x00EE State.reset).faultCause ≠ .none := ⟨by decide, rfl, by decide⟩

/-- A running core away from reset: a program has run, memory holds a stored byte, a register is set. -/
def midRun : State := { ready 0x600A (State.reset.setV 3 7) with started := true, pc := 0x200, dt := 4, sp := 2 }

/-- A halted core: RET on the empty stack. -/
def haltedState : State := ran 0x00EE (State.reset.setV 3 7)

theorem midRun_inv : Inv midRun where
  memory := by decide
  noFault := fun _ => by decide
  faulted := fun h => absurd (show midRun.faultCause = .none by decide) h
  justified := trivial
  fresh := by decide
  loaderStaysHigh := fun h => absurd h (by decide)

theorem haltedState_inv : Inv haltedState where
  memory := by decide
  noFault := by decide
  faulted := fun _ => by decide
  justified := show haltedState.sp = 0 ∧ decodeWord haltedState.fetchWord = .instr .ret by decide
  fresh := fun h => absurd h (by decide)
  loaderStaysHigh := fun h => absurd h (by decide)

/-- From a running state and from a halted one. -/
theorem witness_StepKeepsTheInvariant :
    (Inv midRun ∧ step midRun = .next (after (step midRun))) ∧
    (Inv haltedState ∧ step haltedState = .next (after (step haltedState))) :=
  ⟨⟨midRun_inv, rfl⟩, ⟨haltedState_inv, rfl⟩⟩

/-- From a halted state by reset, from a running one by the keypad. -/
theorem witness_HostKeepsTheInvariant :
    (∃ t reply, Inv haltedState ∧ interact .reset haltedState = .next (t, reply)) ∧
    (∃ t reply, Inv midRun ∧ interact (.setKeypad (Vector.replicate 16 true)) midRun = .next (t, reply)) :=
  ⟨⟨_, _, haltedState_inv, rfl⟩, ⟨_, _, midRun_inv, rfl⟩⟩

theorem ne_of_linear {f g : Framebuffer} (k : Fin 2048) (h : f.linear k ≠ g.linear k) : f ≠ g :=
  fun e => h (by rw [e])

/-- The framebuffer changed by DRW, by CLS and by reset. -/
theorem witness_FramebufferChangesOnlyByClsDrwReset :
    (∃ t reply, interact .cycle (ready 0xD015 State.reset) = .next (t, reply) ∧ t.fb ≠ (ready 0xD015 State.reset).fb) ∧
    (∃ s t reply, interact .cycle s = .next (t, reply) ∧ decodeWord s.fetchWord = .instr .cls ∧ t.fb ≠ s.fb) ∧
    (∃ s t reply, interact .reset s = .next (t, reply) ∧ t.fb ≠ s.fb) :=
  ⟨⟨_, _, rfl, ne_of_linear 0 (by decide)⟩,
   ⟨ready 0x00E0 (State.reset.setFb (Framebuffer.blank.setCell 0 5 true)), _, _, rfl, by decide,
     ne_of_linear 5 (by decide)⟩,
   ⟨State.reset.setFb (Framebuffer.blank.setCell 0 5 true), _, _, rfl, ne_of_linear 5 (by decide)⟩⟩

/-- Each storage changed: memory by a store, by the loader and by reset; the keypad; the stack and its pointer. -/
theorem witness_StoragesWrittenOnlyByTheirWriters :
    (∃ s t reply, interact .cycle s = .next (t, reply) ∧ t.memRead 0x300 ≠ s.memRead 0x300) ∧
    (∃ t reply, interact (.load [1]) State.reset = .next (t, reply) ∧ t.memRead 0x200 ≠ State.reset.memRead 0x200) ∧
    (∃ t reply, interact .reset midRun = .next (t, reply) ∧ t.memRead 0x200 ≠ midRun.memRead 0x200) ∧
    (∃ t reply, interact (.setKeypad (Vector.replicate 16 true)) State.reset = .next (t, reply) ∧
      t.key ≠ State.reset.key) ∧
    (∃ s t reply, interact .cycle s = .next (t, reply) ∧ t.stack ≠ s.stack ∧ t.sp ≠ s.sp) :=
  ⟨⟨ready 0xF055 ((atI 0x300).setV 0 7), _, _, rfl, by decide⟩, ⟨_, _, rfl, by decide +kernel⟩,
   ⟨_, _, rfl, by decide⟩, ⟨_, _, rfl, by decide +kernel⟩,
   ⟨ready 0x2300 State.reset, _, _, rfl, by decide, by decide +kernel⟩⟩

theorem witness_SoundTimerIsNeverRead :
    cycle (ready 0xF307 State.reset) = .next (ran 0xF307 State.reset, outs 0xF307 State.reset) := rfl

/-- RND, and another instruction. -/
theorem witness_OnlyRndDrawsRandomBytes :
    (cycle (ready 0xC50F State.reset) = .next (ran 0xC50F State.reset, outs 0xC50F State.reset) ∧
      (ready 0xC50F State.reset).faultCause = .none ∧
      decodeWord (ready 0xC50F State.reset).fetchWord = .instr (.rnd 5 0x0F)) ∧
    (cycle (ready 0x600A State.reset) = .next (ran 0x600A State.reset, outs 0x600A State.reset) ∧
      ∀ x kk, decodeWord (ready 0x600A State.reset).fetchWord ≠ .instr (.rnd x kk)) := by
  refine ⟨⟨rfl, by decide, by decide⟩, rfl, fun x kk => ?_⟩
  rw [show decodeWord (ready 0x600A State.reset).fetchWord = .instr (.ldByte 0 0x0A) by decide]
  simp

/-- A plain instruction, a skip taken, a stalled cycle. -/
theorem witness_PcMovesByTwoUnlessBranch :
    ∀ p ∈ [(0x00E0, Instr.cls), (0x3000, Instr.seByte 0 0), (0xF50A, Instr.ldVxK 5)],
      (ready p.1 State.reset).faultCause = .none ∧ decodeWord (ready p.1 State.reset).fetchWord = .instr p.2 ∧
      cycle (ready p.1 State.reset) = .next (ran p.1 State.reset, outs p.1 State.reset) ∧
      (ran p.1 State.reset).faultCause = .none ∧ p.2.isBranch = false := by
  intro p h
  simp only [List.mem_cons, List.not_mem_nil, or_false] at h
  rcases h with rfl | rfl | rfl <;> exact ⟨by decide, by decide, rfl, by decide, by decide⟩

theorem witness_RegistersWrittenOnlyAsListed :
    step (ready 0x600A State.reset) = .next (ran 0x600A State.reset) ∧
    (ran 0x600A State.reset).V 0 ≠ (ready 0x600A State.reset).V 0 := ⟨rfl, by decide⟩

theorem witness_IndexWrittenOnlyByFiveInstructions :
    (step (ready 0xA123 State.reset) = .next (ran 0xA123 State.reset) ∧
      (ran 0xA123 State.reset).i ≠ (ready 0xA123 State.reset).i) ∧
    (step (ready 0xF065 State.reset) = .next (ran 0xF065 State.reset) ∧
      (ran 0xF065 State.reset).i ≠ (ready 0xF065 State.reset).i) := ⟨⟨rfl, by decide⟩, rfl, by decide⟩

/-- The screen with the cell at the top left on. -/
def cornerOn : State := State.reset.setFb (Framebuffer.blank.setCell 0 0 true)

/-- Glyph 0 (F0, ...) at the top left: cell 0 is a pixel of it, on or off before; cell 4 is none of its first row; 15 rows
are the most a sprite has. -/
theorem witness_DrawSpriteTogglesItsPixels :
    15 < 16 ∧ SpritePixel State.reset 0 0 15 0 ∧ State.reset.fb.linear 0 = false ∧
    (SpritePixel cornerOn 0 0 15 0 ∧ cornerOn.fb.linear 0 = true) ∧ ¬ SpritePixel State.reset 0 0 1 4 := by
  refine ⟨by decide, ⟨0, 0, by decide⟩, by decide +kernel, ⟨⟨0, 0, by decide +kernel⟩, by decide +kernel⟩, ?_⟩
  rintro ⟨r, c, hr, hc, hk, hb⟩
  obtain rfl : r = 0 := by omega
  revert hk hb
  interval_cases c <;> decide

theorem witness_DrawingTwiceRestoresTheScreen :
    ∃ t u, 5 < 16 ∧ exec (.drw 0 1 5) State.reset = .next t ∧ t.V 0 = State.reset.V 0 ∧ t.V 1 = State.reset.V 1 ∧
      exec (.drw 0 1 5) t = .next u ∧ ∀ k, State.reset.fb.linear k = false :=
  ⟨_, _, by decide, rfl, by decide, by decide +kernel, rfl, fun _ => by rw [show State.reset.fb = Framebuffer.blank from rfl]; simp [Framebuffer.linear]⟩

/-- The hypotheses of the statement that is expected to fail are met too. -/
theorem witness_SecondDrawFlagsEverySetBit :
    ∃ t u, 1 < 16 ∧ exec (.drw 0 1 1) cornerOn = .next t ∧ t.V 0 = cornerOn.V 0 ∧ t.V 1 = cornerOn.V 1 ∧
      exec (.drw 0 1 1) t = .next u :=
  ⟨_, _, by decide, rfl, by decide, by decide +kernel, rfl⟩

theorem witness_ReturnPopsAndAddsTwo :
    0 < ({ State.reset with sp := 1 } : State).sp.val ∧ 0 < ({ State.reset with sp := 16 } : State).sp.val ∧
    State.reset.sp = 0 := by decide

theorem witness_CallPushesItsOwnAddress :
    State.reset.sp.val < 16 ∧ ({ State.reset with sp := 15 } : State).sp.val < 16 ∧
    ({ State.reset with sp := 16 } : State).sp = 16 := by decide

theorem witness_CallThenReturnComesBack : ({ State.reset with sp := 15 } : State).sp.val < 16 := by decide

theorem witness_KeySkipsTestTheSelectedKey :
    ((State.reset.setV 2 0).V 2).toNat = (0 : Fin 16).val ∧ ((State.reset.setV 2 15).V 2).toNat = (15 : Fin 16).val ∧
    ((State.reset.setV 2 16).V 2).toNat > 0xF := by decide

theorem witness_TimerLoadsAndStores :
    State.reset.faultCause = .none ∧ decodeWord (ready 0xFF07 State.reset).fetchWord = .instr (.ldVxDt 15) ∧
    decodeWord (ready 0xF015 State.reset).fetchWord = .instr (.ldDtVx 0) ∧
    decodeWord (ready 0xF318 State.reset).fetchWord = .instr (.ldStVx 3) := by decide

/-- The highest key alone, the lowest with another, and none (the step clause with the word at pc). -/
theorem witness_WaitForKeyTakesTheLowest :
    ((keys [15]).key[15] = true ∧ ∀ j : Fin 16, j < 15 → (keys [15]).key[j.val] = false) ∧
    ((keys [0, 9]).key[0] = true ∧ ∀ j : Fin 16, j < 0 → (keys [0, 9]).key[j.val] = false) ∧
    ((ready 0xF50A State.reset).faultCause = .none ∧
      decodeWord (ready 0xF50A State.reset).fetchWord = .instr (.ldVxK 5) ∧
      ∀ j : Fin 16, (ready 0xF50A State.reset).key[j.val] = false) := by decide

theorem witness_WaitingAgesOnlyTheTimers :
    (ready 0xF50A (State.reset.setDt 3)).faultCause = .none ∧
    decodeWord (ready 0xF50A (State.reset.setDt 3)).fetchWord = .instr (.ldVxK 5) ∧
    ∀ j : Fin 16, (ready 0xF50A (State.reset.setDt 3)).key[j.val] = false := by decide

/-- Two cycles of a jump to itself, with DT and ST counting. -/
def looping : State := ready 0x1200 ((State.reset.setDt 9).setSt 2)

theorem looping_word : decodeWord looping.fetchWord = .instr (.jp 0x200) := by decide

theorem looping_next_word : decodeWord (after (step looping)).fetchWord = .instr (.jp 0x200) := by decide

theorem witness_DelayTimerReadsElapsedCycles :
    ∃ t, Steps (fun u => ∀ x, decodeWord u.fetchWord ≠ .instr (.ldDtVx x)) 2 looping t ∧ t.faultCause = .none :=
  ⟨_, ⟨fun x => by rw [looping_word]; simp, _, rfl, fun x => by
    change decodeWord (after (step looping)).fetchWord ≠ _
    rw [looping_next_word]; simp, _, rfl, rfl⟩, by decide⟩

/-- ST = 2: the second cycle beeps, after one cycle before it. -/
theorem witness_BeepComesInTheLastCycleOfTheSoundTimer :
    ∃ t u o, Steps (fun u => ∀ x, decodeWord u.fetchWord ≠ .instr (.ldStVx x)) 1 looping t ∧
      (∀ x, decodeWord t.fetchWord ≠ .instr (.ldStVx x)) ∧ cycle t = .next (u, o) ∧ u.faultCause = .none ∧
      looping.st.toNat = 1 + 1 ∧ o.beep = true := by
  refine ⟨_, _, _, ⟨fun x => by rw [looping_word]; simp, _, rfl, rfl⟩, fun x => ?_, rfl, by decide, by decide, by decide⟩
  change decodeWord (after (step looping)).fetchWord ≠ _
  rw [looping_next_word]; simp

/-- Memory in its canonical form, empty and with bytes stored at both ends. -/
theorem witness_StoreBcdWritesThreeDigits :
    (atI 0xFFF).mem.wf = true ∧ ((atI 0xFFF).memWrite 0 7 |>.memWrite 0xFFF 7).mem.wf = true := by decide

theorem witness_StoreRegistersWritesABlock :
    (atI 0xFF0).mem.wf = true ∧ ((atI 0xFF8).memWrite 0 7 |>.memWrite 0xFFF 7).mem.wf = true := by decide

/-- The longest image, one byte more, and a load after a cycle. -/
theorem witness_LoaderCopiesOrRefuses :
    State.reset.mem.wf = true ∧ (List.replicate 0xE00 (1 : Byte)).length ≤ 0xE00 ∧ State.reset.started = false ∧
    (List.replicate 0xE01 (1 : Byte)).length > 0xE00 ∧
    midRun.mem.wf = true ∧ ([1, 2] : List Byte).length ≤ 0xE00 ∧ midRun.started = true := by
  exact ⟨rfl, List.length_replicate.le, rfl, by rw [List.length_replicate]; decide, by decide, by decide, rfl⟩

theorem witness_HostInteractionsDoWhatTheTableSays :
    cycle (ready 0xF318 (State.reset.setV 3 1)) = .next (ran 0xF318 (State.reset.setV 3 1), outs 0xF318 (State.reset.setV 3 1)) := rfl

theorem witness_OutputsAreGivenOnlyByTheirCycle :
    ∃ t o, interact .cycle (ready 0xF318 (State.reset.setV 3 1)) = .next (t, .outputs o) ∧ o.beep = true :=
  ⟨_, _, rfl, by decide⟩

/-- A beep, a report, a fault. -/
theorem witness_CycleOutputsFitTheStateTheyComeWith :
    (∃ t o, cycle (ready 0x00E0 (State.reset.setSt 1)) = .next (t, o) ∧ o.beep = true) ∧
    (∃ t o, cycle (ready 0x8008 State.reset) = .next (t, o) ∧ o.unknownOpcode = some (0x8008, 0x200)) ∧
    (∃ t o, cycle (ready 0x00EE (State.reset.setSt 1)) = .next (t, o) ∧ t.faultCause ≠ .none) :=
  ⟨⟨_, _, rfl, by decide⟩, ⟨_, _, rfl, by decide +kernel⟩, ⟨_, _, rfl, by decide +kernel⟩⟩

end Sys2Proof.Tests
end

section
/-! The fetched word as the shift and OR of its two bytes (20_memory.md R53). -/

namespace Sys2Proof

/-- The model joins two bytes by arithmetic, R53 by a shift and an OR: they agree because the low byte fills only the
eight bits the shift clears. -/
theorem wordOfBytes_eq_shiftLeft_or (hi lo : Byte) :
    wordOfBytes hi lo = (hi.setWidth 16 <<< 8) ||| lo.setWidth 16 := by
  have hhi := hi.isLt
  have hlo := lo.isLt
  have hshift : (hi.setWidth 16 <<< 8).toNat = hi.toNat <<< 8 := by
    simp only [BitVec.toNat_shiftLeft, BitVec.toNat_setWidth, Nat.shiftLeft_eq]; omega
  have hlow : (lo.setWidth 16).toNat = lo.toNat := BitVec.toNat_setWidth_of_le (by decide)
  apply BitVec.eq_of_toNat_eq
  calc (wordOfBytes hi lo).toNat
      = hi.toNat <<< 8 + lo.toNat := by rw [wordOfBytes_toNat, Nat.shiftLeft_eq]
    _ = hi.toNat <<< 8 ||| lo.toNat := Nat.shiftLeft_add_eq_or_of_lt hlo _
    _ = (hi.setWidth 16 <<< 8 ||| lo.setWidth 16).toNat := by rw [BitVec.toNat_or, hshift, hlow]

/-- Settles O7: the model's fetch joins the bytes at pc and at the wrapped pc + 1, the one at pc high. -/
theorem fetchIsBigEndian : Obligations.FetchIsBigEndian := by
  intro s
  exact wordOfBytes_eq_shiftLeft_or (s.memRead s.pc.toNat) (s.memRead (s.pc + 1).toNat)

end Sys2Proof
end

section
/-! The fields of a word as its bits (30_encoding.md R71). -/

namespace Sys2Proof

/-- `w[hi:lo]` of R6, written in the model with a division and a remainder, is the slice of `hi + 1 - lo` bits from `lo`
up: the division drops the bits below `lo`, the remainder those above `hi`. -/
theorem field_eq_toNat_extractLsb' (w : Word) (hi lo : Nat) :
    field w hi lo = (w.extractLsb' lo (hi + 1 - lo)).toNat := by
  rw [BitVec.extractLsb'_toNat, Nat.shiftRight_eq_div_pow, field]

theorem val_finOfNat_toNat (b : BitVec 4) : (Fin.ofNat 16 b.toNat).val = b.toNat := Nat.mod_eq_of_lt b.isLt

theorem fieldX_val_eq_extractLsb' (w : Word) : (fieldX w).val = (w.extractLsb' 8 4).toNat := by
  rw [fieldX, field_eq_toNat_extractLsb', val_finOfNat_toNat]

theorem fieldY_val_eq_extractLsb' (w : Word) : (fieldY w).val = (w.extractLsb' 4 4).toNat := by
  rw [fieldY, field_eq_toNat_extractLsb', val_finOfNat_toNat]

theorem fieldKK_eq_extractLsb' (w : Word) : fieldKK w = w.extractLsb' 0 8 := by
  rw [fieldKK, field_eq_toNat_extractLsb', BitVec.ofNat_toNat, BitVec.setWidth_eq]

theorem fieldNNN_eq_extractLsb' (w : Word) : fieldNNN w = w.extractLsb' 0 12 := by
  rw [fieldNNN, field_eq_toNat_extractLsb', BitVec.ofNat_toNat, BitVec.setWidth_eq]

/-- Settles O1: the fields held as numbers are the slice itself; a register number, a byte and an address have room for
every value of theirs, so nothing is cut off. -/
theorem fieldsAreTheirBits : Obligations.FieldsAreTheirBits := by
  intro w
  exact ⟨field_eq_toNat_extractLsb' w 15 12, fieldX_val_eq_extractLsb' w, fieldY_val_eq_extractLsb' w,
    field_eq_toNat_extractLsb' w 3 0, field_eq_toNat_extractLsb' w 7 0, fieldKK_eq_extractLsb' w,
    fieldNNN_eq_extractLsb' w⟩

end Sys2Proof
end

section
/-! Who changes the framebuffer: CLS, DRW and reset, and nobody else (41_display.md R100, R106). -/

namespace Sys2Proof.Machine

/-! ## Operations that leave the framebuffer as it is -/

namespace State

@[simp] theorem skipIf_fb (s : State) (c : Bool) : (s.skipIf c).fb = s.fb := by rw [skipIf_eq, setPc_fb]

@[simp] theorem endCycle_fb (s : State) : s.endCycle.fb = s.fb := by
  cases h : s.halted with
  | true => rw [endCycle_of_halted h]
  | false => rw [endCycle_of_running h, timerTick_fb]

@[simp] theorem hostLoad_fb (s : State) (image : List Byte) : (s.hostLoad image).1.fb = s.fb := by
  unfold hostLoad
  split
  · rfl
  · split <;> rfl

theorem push_fb {s t : State} {w : Word} (h : s.push w = some t) : t.fb = s.fb := by
  unfold push at h
  split at h <;> cases h
  rfl

theorem pop_fb {s t : State} {w : Word} (h : s.pop = some (w, t)) : t.fb = s.fb := by
  unfold pop at h
  split at h <;> cases h
  rfl

end State

/-! ## Instructions with more than one outcome -/

theorem execRet_fb {s t : State} (h : execRet s = .next t) : t.fb = s.fb := by
  unfold execRet at h
  split at h <;> cases h
  · next hpop => rw [State.advance_fb, State.setPc_fb, State.pop_fb hpop]
  · rfl

theorem execCall_fb {nnn : BitVec 12} {s t : State} (h : execCall nnn s = .next t) : t.fb = s.fb := by
  unfold execCall at h
  split at h <;> cases h
  · next hpush => rw [State.setPc_fb, State.push_fb hpush]
  · rfl

theorem execSkp_fb {x : Reg} {s t : State} (h : execSkp x s = .next t) : t.fb = s.fb := by
  unfold execSkp at h
  split at h <;> cases h
  · exact s.skipIf_fb _
  · rfl

theorem execSknp_fb {x : Reg} {s t : State} (h : execSknp x s = .next t) : t.fb = s.fb := by
  unfold execSknp at h
  split at h <;> cases h
  · exact s.skipIf_fb _
  · rfl

theorem execLdVxK_fb {x : Reg} {s t : State} (h : execLdVxK x s = .next t) : t.fb = s.fb := by
  unfold execLdVxK at h
  split at h <;> cases h <;> rfl

theorem execLoadRegs_fb {x : Reg} {s t : State} (h : execLoadRegs x s = .next t) : t.fb = s.fb := by
  cases h
  rw [State.advance_fb, State.setI_fb, (foldl_setV (fun r => s.memRead (s.i.toNat + r.val)) (regsUpTo x) s).2]

/-! ## The instruction, the cycle and the host's interaction -/

/-- An instruction leaves the framebuffer as it is, or is one of the two that draw (41_display.md R106). -/
theorem exec_fb {i : Instr} {s t : State} (h : exec i s = .next t) :
    t.fb = s.fb ∨ i = .cls ∨ ∃ x y n, i = .drw x y n := by
  cases i with
  | cls => exact .inr (.inl rfl)
  | drw x y n => exact .inr (.inr ⟨x, y, n, rfl⟩)
  | ret => exact .inl (execRet_fb h)
  | call nnn => exact .inl (execCall_fb h)
  | skp x => exact .inl (execSkp_fb h)
  | sknp x => exact .inl (execSknp_fb h)
  | ldVxK x => exact .inl (execLdVxK_fb h)
  | loadRegs x => exact .inl (execLoadRegs_fb h)
  | seByte | sneByte | seReg | sneReg =>
    cases h
    exact .inl (s.skipIf_fb _)
  | _ =>
    cases h
    exact .inl rfl

/-- A cycle leaves the framebuffer as it is, or its word decodes to CLS or DRW. -/
theorem cycle_fb {s t : State} {o : Outputs} (h : cycle s = .next (t, o)) :
    t.fb = s.fb ∨ decodeWord s.fetchWord = .instr .cls ∨ ∃ x y n, decodeWord s.fetchWord = .instr (.drw x y n) := by
  obtain ⟨-, rfl, -⟩ | ⟨-, i, u, hd, hu, rfl, -⟩ | ⟨-, why, -, rfl, -⟩ := cycle_cases h
  · exact .inl rfl
  · obtain hfb | rfl | ⟨x, y, n, rfl⟩ := exec_fb hu
    · exact .inl (u.endCycle_fb.trans hfb)
    · exact .inr (.inl hd)
    · exact .inr (.inr ⟨x, y, n, hd⟩)
  · exact .inl rfl

/-- The host's Cycle answers the state of `cycle` and its outputs (60_exceptions.md R250). -/
theorem interact_cycle_eq_next {s t : State} {reply : Reply} :
    interact .cycle s = .next (t, reply) ↔ ∃ o, cycle s = .next (t, o) ∧ reply = .outputs o := by
  unfold interact
  cases cycle s with
  | next p => cases p; simp [eq_comm, and_comm]
  | fault r => exact nomatch r
  | refused r => simp

/-- An interaction leaves the framebuffer as it is, or is reset, or a cycle whose word decodes to CLS or DRW. -/
theorem interact_fb {r : Interaction} {s t : State} {reply : Reply} (h : interact r s = .next (t, reply)) :
    t.fb = s.fb ∨ r = .reset ∨
      (r = .cycle ∧ (decodeWord s.fetchWord = .instr .cls ∨ ∃ x y n, decodeWord s.fetchWord = .instr (.drw x y n))) := by
  cases r with
  | reset => exact .inr (.inl rfl)
  | cycle =>
    obtain ⟨o, hc, -⟩ := interact_cycle_eq_next.1 h
    exact (cycle_fb hc).imp_right fun hd => .inr ⟨rfl, hd⟩
  | load image =>
    have ht : s.hostLoad image = (t, reply) := Host.Outcome.next.inj h
    exact .inl (by rw [← s.hostLoad_fb image, ht])
  | setKeypad | readFramebuffer | clearDirty | readFault =>
    cases h
    exact .inl rfl

/-- Settles O20: the first clause is `interact_fb`; reading and clearing the dirty flag are the host's own two functions. -/
theorem framebufferChangesOnlyByClsDrwReset : Obligations.FramebufferChangesOnlyByClsDrwReset :=
  ⟨fun _ _ _ _ h hne => (interact_fb h).resolve_left hne, fun _ => rfl, fun _ => rfl⟩

/-! ## CLS -/

/-- The family of CLS and its low byte; X is not examined (30_encoding.md R77). -/
theorem decodeFamily0_eq_cls_iff (w : Word) : decodeFamily0 w = .instr .cls ↔ fieldLow w = 0xE0 := by
  unfold decodeFamily0
  split
  · next hlow => simp [hlow]
  · next hlow => simp [hlow]
  · next hcls _ => exact ⟨nofun, fun hlow => absurd hlow hcls⟩

theorem decodeFamily8_ne_cls (w : Word) : decodeFamily8 w ≠ .instr .cls := by
  unfold decodeFamily8
  split <;> nofun

theorem decodeFamilyE_ne_cls (w : Word) : decodeFamilyE w ≠ .instr .cls := by
  unfold decodeFamilyE
  split <;> nofun

theorem decodeFamilyF_ne_cls (w : Word) : decodeFamilyF w ≠ .instr .cls := by
  unfold decodeFamilyF
  split <;> nofun

/-- Of the sixteen families only family 0 holds CLS. -/
theorem decodeWord_eq_cls_iff (w : Word) : decodeWord w = .instr .cls ↔ fieldF w = 0x0 ∧ fieldLow w = 0xE0 := by
  constructor
  · intro h
    unfold decodeWord at h
    split at h
    case h_1 hF => exact ⟨hF, (decodeFamily0_eq_cls_iff w).1 h⟩
    case h_9 => exact absurd h (decodeFamily8_ne_cls w)
    case h_15 => exact absurd h (decodeFamilyE_ne_cls w)
    case h_16 => exact absurd h (decodeFamilyF_ne_cls w)
    all_goals cases h
  · rintro ⟨hF, hlow⟩
    have h0 : decodeWord w = decodeFamily0 w := by simp only [decodeWord, hF]
    rw [h0, decodeFamily0_eq_cls_iff, hlow]

theorem encodes_cls : Encodes 0x00E0#16 0xF0FF#16 (fun _ => .cls) := fun w =>
  (and_F0FF_eq_iff w (by decide) (by decide)).trans (decodeWord_eq_cls_iff w).symm

@[simp] theorem Framebuffer.blank_linear (k : Fin 2048) : Framebuffer.blank.linear k = false := Framebuffer.blank_cell _ _

/-- A framebuffer replaced, then pc + 2: the screen and pc change, VF among the rest does not. -/
theorem onlyChanges_setFb_advance (s : State) (fb : Framebuffer) :
    OnlyChanges { screen := true } s (s.setFb fb).advance := by
  simp [OnlyChanges]

/-- Settles O28: CLS puts the blank framebuffer, whatever the cells were, and moves on. -/
theorem clearScreenTurnsEveryCellOff : Obligations.ClearScreenTurnsEveryCellOff :=
  ⟨encodes_cls, fun s => ⟨(s.setFb .blank).advance, rfl, Framebuffer.blank_linear, rfl, rfl, onlyChanges_setFb_advance s .blank⟩⟩

end Sys2Proof.Machine
end

section
/-! The family of a decoded word is its instruction's (30_encoding.md R74, R75), and the rows that examine nothing else. -/

namespace Sys2Proof.Machine

theorem fieldF_row_of_decodeFamily0 {w : Word} {i : Instr} (h : decodeFamily0 w = .instr i) :
    fieldF i.row.pattern = 0x0 := by
  unfold decodeFamily0 at h
  split at h <;> cases h <;> simp [Instr.row, fieldF_eq]

theorem fieldF_row_of_decodeFamily8 {w : Word} {i : Instr} (h : decodeFamily8 w = .instr i) :
    fieldF i.row.pattern = 0x8 := by
  unfold decodeFamily8 at h
  split at h <;> cases h <;> simp [Instr.row, fieldF_eq]

theorem fieldF_row_of_decodeFamilyE {w : Word} {i : Instr} (h : decodeFamilyE w = .instr i) :
    fieldF i.row.pattern = 0xE := by
  unfold decodeFamilyE at h
  split at h <;> cases h <;> simp [Instr.row, fieldF_eq]

theorem fieldF_row_of_decodeFamilyF {w : Word} {i : Instr} (h : decodeFamilyF w = .instr i) :
    fieldF i.row.pattern = 0xF := by
  unfold decodeFamilyF at h
  split at h <;> cases h <;> simp [Instr.row, fieldF_eq]

/-- A word decodes only to an instruction of its own family. -/
theorem fieldF_row_of_decodeWord {w : Word} {i : Instr} (h : decodeWord w = .instr i) :
    fieldF i.row.pattern = fieldF w := by
  unfold decodeWord at h
  split at h
  case h_1 hF => exact (fieldF_row_of_decodeFamily0 h).trans hF.symm
  case h_9 hF => exact (fieldF_row_of_decodeFamily8 h).trans hF.symm
  case h_15 hF => exact (fieldF_row_of_decodeFamilyE h).trans hF.symm
  case h_16 =>
    have hlt := fieldF_lt w
    have hF : fieldF w = 0xF := by grind
    exact (fieldF_row_of_decodeFamilyF h).trans hF.symm
  all_goals
    next hF =>
      cases h
      rw [hF]
      simp [Instr.row, fieldF_eq]

/-- An instruction that is alone in its family: a word of the family decodes to it, and its row is of the family. -/
theorem encodes_of_fieldF {p : Nat} (hp : p < 16) {f : Word → Instr}
    (hdec : ∀ w, fieldF w = p → decodeWord w = .instr (f w)) (hrow : ∀ w, fieldF (f w).row.pattern = p) :
    Encodes (BitVec.ofNat 16 (p * 4096)) 0xF000#16 f := fun w =>
  (and_F000_eq_iff w hp).trans ⟨hdec w, fun h => (fieldF_row_of_decodeWord h).symm.trans (hrow w)⟩

theorem encodes_jp : Encodes 0x1000#16 0xF000#16 (fun w => .jp (fieldNNN w)) :=
  encodes_of_fieldF (p := 0x1) (by decide) (fun w hF => by simp only [decodeWord, hF])
    fun _ => by simp [Instr.row, fieldF_eq]

theorem encodes_seByte : Encodes 0x3000#16 0xF000#16 (fun w => .seByte (fieldX w) (fieldKK w)) :=
  encodes_of_fieldF (p := 0x3) (by decide) (fun w hF => by simp only [decodeWord, hF])
    fun _ => by simp [Instr.row, fieldF_eq]

theorem encodes_sneByte : Encodes 0x4000#16 0xF000#16 (fun w => .sneByte (fieldX w) (fieldKK w)) :=
  encodes_of_fieldF (p := 0x4) (by decide) (fun w hF => by simp only [decodeWord, hF])
    fun _ => by simp [Instr.row, fieldF_eq]

end Sys2Proof.Machine
end

section
/-! Jumps and skips move pc and nothing else (42_control_flow.md R121, R123, R124). -/

namespace Sys2Proof.Machine

/-- pc stands outside every frame, so assigning it changes nothing that a frame protects. -/
theorem onlyChanges_setPc (c : Changes) (s : State) (w : Word) : OnlyChanges c s (s.setPc w) := by
  simp [OnlyChanges]

theorem onlyChanges_skipIf (c : Changes) (s : State) (cond : Bool) : OnlyChanges c s (s.skipIf cond) := by
  rw [State.skipIf_eq]
  exact onlyChanges_setPc c s _

/-- The pc after a skip (30_encoding.md R83). -/
theorem State.skipIf_decide_pc (s : State) (p : Prop) [Decidable p] :
    (s.skipIf (decide p)).pc = if p then s.pc + 4 else s.pc + 2 := by
  simp only [skipIf_eq, setPc_pc, decide_eq_true_eq]

/-- Settles O33: JP assigns the operand, whose value is NNN, to pc. -/
theorem jumpAssignsPc : Obligations.JumpAssignsPc :=
  ⟨encodes_jp, fun nnn s => ⟨s.setPc (addrOperand nnn), rfl, addrOperand_toNat nnn, onlyChanges_setPc {} s _⟩⟩

/-- Settles O36: both are one skip, SE on the equality and SNE on its negation. -/
theorem skipsCompareWithAByte : Obligations.SkipsCompareWithAByte := by
  refine ⟨encodes_seByte, encodes_sneByte, fun x kk s => ⟨?se, ?sne⟩⟩
  case se => exact ⟨_, rfl, s.skipIf_decide_pc (s.V x = kk), onlyChanges_skipIf {} s _⟩
  case sne => exact ⟨_, rfl, (s.skipIf_decide_pc (s.V x ≠ kk)).trans (ite_not ..), onlyChanges_skipIf {} s _⟩

end Sys2Proof.Machine
end

section
/-! The rows of family 8, and the two rows with a byte literal (30_encoding.md R75). -/

namespace Sys2Proof.Machine

/-- A word of family 8 decodes only to an instruction with its own low nibble. -/
theorem fieldN_row_of_decodeFamily8 {w : Word} {i : Instr} (h : decodeFamily8 w = .instr i) :
    fieldN i.row.pattern = fieldN w := by
  unfold decodeFamily8 at h
  split at h <;> cases h
  all_goals
    next hN =>
      rw [hN]
      simp [Instr.row, fieldN_eq]

theorem decodeWord_of_family8 {w : Word} (hF : fieldF w = 0x8) : decodeWord w = decodeFamily8 w := by
  simp only [decodeWord, hF]

/-- An instruction of family 8: a word of the family with its low nibble decodes to it, and no other word does. -/
theorem encodes_of_fieldN {n : Nat} (hn : n < 16) {f : Word → Instr}
    (hdec : ∀ w, fieldN w = n → decodeFamily8 w = .instr (f w))
    (hrow : ∀ w, (f w).row.pattern = BitVec.ofNat 16 (0x8 * 4096 + n)) :
    Encodes (BitVec.ofNat 16 (0x8 * 4096 + n)) 0xF00F#16 f := fun w => by
  refine (and_F00F_eq_iff w (by decide) hn).trans ⟨fun ⟨hF, hN⟩ => ?_, fun h => ?_⟩
  · rw [decodeWord_of_family8 hF, hdec w hN]
  · obtain ⟨hpF, hpN⟩ : fieldF (f w).row.pattern = 0x8 ∧ fieldN (f w).row.pattern = n := by
      rw [hrow, fieldF_eq, fieldN_eq, BitVec.toNat_ofNat]
      omega
    have hF : fieldF w = 0x8 := (fieldF_row_of_decodeWord h).symm.trans hpF
    rw [decodeWord_of_family8 hF] at h
    exact ⟨hF, (fieldN_row_of_decodeFamily8 h).symm.trans hpN⟩

theorem encodes_ldByte : Encodes 0x6000#16 0xF000#16 (fun w => .ldByte (fieldX w) (fieldKK w)) :=
  encodes_of_fieldF (p := 0x6) (by decide) (fun w hF => by simp only [decodeWord, hF])
    fun _ => by simp [Instr.row, fieldF_eq]

theorem encodes_addByte : Encodes 0x7000#16 0xF000#16 (fun w => .addByte (fieldX w) (fieldKK w)) :=
  encodes_of_fieldF (p := 0x7) (by decide) (fun w hF => by simp only [decodeWord, hF])
    fun _ => by simp [Instr.row, fieldF_eq]

theorem encodes_ldReg : Encodes 0x8000#16 0xF00F#16 (fun w => .ldReg (fieldX w) (fieldY w)) :=
  encodes_of_fieldN (n := 0x0) (by decide) (fun w hN => by simp only [decodeFamily8, hN]) fun _ => rfl

theorem encodes_orReg : Encodes 0x8001#16 0xF00F#16 (fun w => .orReg (fieldX w) (fieldY w)) :=
  encodes_of_fieldN (n := 0x1) (by decide) (fun w hN => by simp only [decodeFamily8, hN]) fun _ => rfl

theorem encodes_andReg : Encodes 0x8002#16 0xF00F#16 (fun w => .andReg (fieldX w) (fieldY w)) :=
  encodes_of_fieldN (n := 0x2) (by decide) (fun w hN => by simp only [decodeFamily8, hN]) fun _ => rfl

theorem encodes_xorReg : Encodes 0x8003#16 0xF00F#16 (fun w => .xorReg (fieldX w) (fieldY w)) :=
  encodes_of_fieldN (n := 0x3) (by decide) (fun w hN => by simp only [decodeFamily8, hN]) fun _ => rfl

theorem encodes_addReg : Encodes 0x8004#16 0xF00F#16 (fun w => .addReg (fieldX w) (fieldY w)) :=
  encodes_of_fieldN (n := 0x4) (by decide) (fun w hN => by simp only [decodeFamily8, hN]) fun _ => rfl

theorem encodes_subReg : Encodes 0x8005#16 0xF00F#16 (fun w => .subReg (fieldX w) (fieldY w)) :=
  encodes_of_fieldN (n := 0x5) (by decide) (fun w hN => by simp only [decodeFamily8, hN]) fun _ => rfl

theorem encodes_shr : Encodes 0x8006#16 0xF00F#16 (fun w => .shr (fieldX w) (fieldY w)) :=
  encodes_of_fieldN (n := 0x6) (by decide) (fun w hN => by simp only [decodeFamily8, hN]) fun _ => rfl

theorem encodes_subnReg : Encodes 0x8007#16 0xF00F#16 (fun w => .subnReg (fieldX w) (fieldY w)) :=
  encodes_of_fieldN (n := 0x7) (by decide) (fun w hN => by simp only [decodeFamily8, hN]) fun _ => rfl

theorem encodes_shl : Encodes 0x800E#16 0xF00F#16 (fun w => .shl (fieldX w) (fieldY w)) :=
  encodes_of_fieldN (n := 0xE) (by decide) (fun w hN => by simp only [decodeFamily8, hN]) fun _ => rfl

end Sys2Proof.Machine
end

section
/-! ALU instructions that write no flag: one register assigned, then pc + 2 (43_alu.md R150 to R155). -/

namespace Sys2Proof.Machine

theorem onlyChanges_setV_advance (s : State) (x : Reg) (b : Byte) :
    OnlyChanges { regs := [x] } s (s.setV x b).advance := by
  simp +contextual [OnlyChanges]

/-- Settles O39: each is one register assigned, from the literal or from V[Y]. -/
theorem loadByteAndMove : Obligations.LoadByteAndMove := by
  refine ⟨encodes_ldByte, encodes_ldReg, fun x kk s => ?byte, fun x y s => ?reg⟩
  case byte => exact ⟨(s.setV x kk).advance, rfl, s.setV_V_same x kk, rfl, onlyChanges_setV_advance s x kk⟩
  case reg => exact ⟨(s.setV x (s.V y)).advance, rfl, s.setV_V_same x _, rfl, onlyChanges_setV_advance s x _⟩

/-- Settles O40: the register alone is assigned, and a sum of bytes is the sum modulo 256. -/
theorem addByteWrapsWithoutFlag : Obligations.AddByteWrapsWithoutFlag := by
  refine ⟨encodes_addByte, fun x kk s => ⟨_, rfl, ?sum, rfl, onlyChanges_setV_advance s x _⟩⟩
  case sum => rw [State.advance_V, State.setV_V_same, BitVec.toNat_add]

/-- Settles O41: bit `b` of the register assigned is the operation on the two bits `b`. -/
theorem logicalOperationsBitByBit : Obligations.LogicalOperationsBitByBit := by
  refine ⟨encodes_orReg, encodes_andReg, encodes_xorReg, fun x y s => ⟨?or, ?and, ?xor⟩⟩
  case or =>
    refine ⟨_, rfl, fun b => ?_, rfl, onlyChanges_setV_advance s x _⟩
    rw [State.advance_V, State.setV_V_same, BitVec.getLsbD_or]
  case and =>
    refine ⟨_, rfl, fun b => ?_, rfl, onlyChanges_setV_advance s x _⟩
    rw [State.advance_V, State.setV_V_same, BitVec.getLsbD_and]
  case xor =>
    refine ⟨_, rfl, fun b => ?_, rfl, onlyChanges_setV_advance s x _⟩
    rw [State.advance_V, State.setV_V_same, BitVec.getLsbD_xor]

end Sys2Proof.Machine
end

section
/-! ALU instructions that write a flag: the result, then VF, then pc + 2 (43_alu.md R156 to R160, R163). -/

namespace Sys2Proof.Machine

namespace State

variable (s : State)

@[simp] theorem setResultAndFlag_pc (x : Reg) (res f : Byte) : (s.setResultAndFlag x res f).pc = s.pc + 2 := rfl

@[simp] theorem setResultAndFlag_V_vF (x : Reg) (res f : Byte) : (s.setResultAndFlag x res f).V vF = f := by
  rw [setResultAndFlag_V, if_pos rfl]

@[simp] theorem setResultAndFlag_V_of_ne_vF {x : Reg} (hx : x ≠ vF) (res f : Byte) :
    (s.setResultAndFlag x res f).V x = res := by
  rw [setResultAndFlag_V, if_neg hx, if_pos rfl]

end State

theorem onlyChanges_setResultAndFlag (s : State) (x : Reg) (res f : Byte) :
    OnlyChanges { regs := [x, vF] } s (s.setResultAndFlag x res f) := by
  simp +contextual [OnlyChanges, State.setResultAndFlag]

/-! ## What the flags and the results are as numbers -/

theorem flagByte_decide (p : Prop) [Decidable p] : flagByte (decide p) = if p then 1 else 0 := by
  simp only [flagByte, decide_eq_true_eq]

theorem flagByte_toNat (b : Bool) : (flagByte b).toNat = b.toNat := by cases b <;> rfl

theorem lowBitFlag_toNat (a : Byte) : (lowBitFlag a).toNat = a.toNat % 2 := by
  rw [lowBitFlag, flagByte_toNat, BitVec.getLsbD, Nat.toNat_testBit, pow_zero, Nat.div_one]

theorem highBitFlag_toNat (a : Byte) : (highBitFlag a).toNat = a.toNat / 128 := by
  have := a.isLt
  rw [highBitFlag, flagByte_toNat, BitVec.getLsbD, Nat.toNat_testBit]
  omega

/-- A difference of bytes is the exact difference modulo 256 (00_scope.md R6). -/
theorem natCast_toNat_sub (a b : Byte) : ((a - b).toNat : Int) = ((a.toNat : Int) - b.toNat) % 256 := by
  have := b.isLt
  rw [BitVec.toNat_sub]
  omega

theorem toNat_shiftRight_one (a : Byte) : (a >>> 1).toNat = a.toNat / 2 := by
  rw [BitVec.toNat_ushiftRight, Nat.shiftRight_one]

theorem toNat_shiftLeft_one (a : Byte) : (a <<< 1).toNat = 2 * a.toNat % 256 := by
  rw [BitVec.toNat_shiftLeft, Nat.shiftLeft_eq, pow_one, Nat.mul_comm]

/-! ## The instructions -/

/-- Settles O42: the result stands in V[X] unless X = F, and VF is the carry of the values before. -/
theorem addRegisterSetsCarry : Obligations.AddRegisterSetsCarry := by
  refine ⟨encodes_addReg, fun x y s => ⟨_, rfl, fun hx => ?sum, ?flag, rfl, onlyChanges_setResultAndFlag s x _ _⟩⟩
  case sum => rw [s.setResultAndFlag_V_of_ne_vF hx, BitVec.toNat_add]
  case flag => rw [State.setResultAndFlag_V_vF, carryFlag, flagByte_decide]

/-- SUB and SUBN alike (43_alu.md R157, R159): only which operand is the minuend `a` differs. -/
theorem subtract_effect (s : State) (x : Reg) (a b : Byte) {t : State}
    (ht : t = s.setResultAndFlag x (a - b) (greaterFlag a b)) :
    (x ≠ vF → ((t.V x).toNat : Int) = ((a.toNat : Int) - b.toNat) % 256) ∧
      t.V vF = (if a.toNat > b.toNat then 1 else 0) ∧
      t.pc = s.pc + 2 ∧ OnlyChanges { regs := [x, vF] } s t := by
  subst ht
  refine ⟨fun hx => ?diff, ?flag, rfl, onlyChanges_setResultAndFlag s x _ _⟩
  case diff => rw [s.setResultAndFlag_V_of_ne_vF hx, natCast_toNat_sub]
  case flag => rw [State.setResultAndFlag_V_vF, greaterFlag, flagByte_decide]

/-- Settles O43: SUB and SUBN are one subtraction, with the operands in the two orders. -/
theorem subtractSetsNotBorrow : Obligations.SubtractSetsNotBorrow :=
  ⟨encodes_subReg, encodes_subnReg, fun x y s =>
    ⟨⟨_, rfl, subtract_effect s x (s.V x) (s.V y) rfl⟩, ⟨_, rfl, subtract_effect s x (s.V y) (s.V x) rfl⟩⟩⟩

/-- Settles O44: result and flag are the two parts of V[X] that the shift separates; V[Y] is not read. -/
theorem shiftsMoveOneBitIntoTheFlag : Obligations.ShiftsMoveOneBitIntoTheFlag := by
  refine ⟨encodes_shr, encodes_shl, fun x y s => ⟨?shr, ?shl⟩⟩
  case shr =>
    refine ⟨_, rfl, fun hx => ?_, ?_, rfl, onlyChanges_setResultAndFlag s x _ _⟩
    · rw [s.setResultAndFlag_V_of_ne_vF hx, toNat_shiftRight_one]
    · rw [State.setResultAndFlag_V_vF, lowBitFlag_toNat]
  case shl =>
    refine ⟨_, rfl, fun hx => ?_, ?_, rfl, onlyChanges_setResultAndFlag s x _ _⟩
    · rw [s.setResultAndFlag_V_of_ne_vF hx, toNat_shiftLeft_one]
    · rw [State.setResultAndFlag_V_vF, highBitFlag_toNat]

end Sys2Proof.Machine
end

section
/-! The rows of family F: the family and the low byte (30_encoding.md R75). -/

namespace Sys2Proof.Machine

theorem decodeWord_of_familyF {w : Word} (hF : fieldF w = 0xF) : decodeWord w = decodeFamilyF w := by
  simp only [decodeWord, hF]

/-- A word of family F decodes only to an instruction with its own low byte. -/
theorem fieldLow_row_of_decodeFamilyF {w : Word} {i : Instr} (h : decodeFamilyF w = .instr i) :
    fieldLow i.row.pattern = fieldLow w := by
  unfold decodeFamilyF at h
  split at h <;> cases h
  all_goals
    next hlow =>
      rw [hlow]
      simp [Instr.row, fieldLow_eq]

/-- An instruction of family F: a word of the family with its low byte decodes to it, and no other word does. -/
theorem encodes_of_fieldLow_familyF {k : Nat} (hk : k < 256) {f : Word → Instr}
    (hdec : ∀ w, fieldLow w = k → decodeFamilyF w = .instr (f w))
    (hrow : ∀ w, (f w).row.pattern = BitVec.ofNat 16 (0xF * 4096 + k)) :
    Encodes (BitVec.ofNat 16 (0xF * 4096 + k)) 0xF0FF#16 f := fun w => by
  refine (and_F0FF_eq_iff w (by decide) hk).trans ⟨fun ⟨hF, hlow⟩ => ?_, fun h => ?_⟩
  · rw [decodeWord_of_familyF hF, hdec w hlow]
  · obtain ⟨hpF, hplow⟩ : fieldF (f w).row.pattern = 0xF ∧ fieldLow (f w).row.pattern = k := by
      rw [hrow, fieldF_eq, fieldLow_eq, BitVec.toNat_ofNat]
      omega
    have hF : fieldF w = 0xF := (fieldF_row_of_decodeWord h).symm.trans hpF
    rw [decodeWord_of_familyF hF] at h
    exact ⟨hF, (fieldLow_row_of_decodeFamilyF h).symm.trans hplow⟩

theorem encodes_ldVxDt : Encodes 0xF007#16 0xF0FF#16 (fun w => .ldVxDt (fieldX w)) :=
  encodes_of_fieldLow_familyF (k := 0x07) (by decide) (fun w hlow => by simp only [decodeFamilyF, hlow]) fun _ => rfl

theorem encodes_ldDtVx : Encodes 0xF015#16 0xF0FF#16 (fun w => .ldDtVx (fieldX w)) :=
  encodes_of_fieldLow_familyF (k := 0x15) (by decide) (fun w hlow => by simp only [decodeFamilyF, hlow]) fun _ => rfl

theorem encodes_ldStVx : Encodes 0xF018#16 0xF0FF#16 (fun w => .ldStVx (fieldX w)) :=
  encodes_of_fieldLow_familyF (k := 0x18) (by decide) (fun w hlow => by simp only [decodeFamilyF, hlow]) fun _ => rfl

end Sys2Proof.Machine
end

section
/-! Timer loads and stores, and the tick that ends their cycle (44_keys_timers.md R182, R184, R185; 60_exceptions.md
R243, R244). -/

namespace Sys2Proof.Machine

theorem onlyChanges_setDt_advance (s : State) (b : Byte) : OnlyChanges { dt := true } s (s.setDt b).advance := by
  simp [OnlyChanges]

theorem onlyChanges_setSt_advance (s : State) (b : Byte) : OnlyChanges { st := true } s (s.setSt b).advance := by
  simp [OnlyChanges]

theorem State.tickBeeps_iff {s : State} : s.tickBeeps = true ↔ s.st = 1 := decide_eq_true_iff

/-- A running core's cycle whose instruction raises no fault ends with the tick, and its beep is the tick's
(60_exceptions.md R243, R244). -/
theorem cycle_of_completed_instr {s u : State} {i : Instr} (hs : s.halted = false)
    (hd : decodeWord s.fetchWord = .instr i) (hu : exec i s.beginCycle = .next u) (hr : u.halted = false) :
    cycle s = .next (u.timerTick, ⟨u.tickBeeps, none, stalledBy (.instr i) s⟩) := by
  have ho : outputsOf (.instr i) s u = ⟨u.tickBeeps, none, stalledBy (.instr i) s⟩ := by
    simp only [outputsOf, hr, Bool.false_eq_true, if_false, unknownReport]
  rw [cycle_of_instr hs hd hu, endCycle_of_running hr, ho]

/-- Settles O47: each instruction is one assignment, then pc + 2, and the tick that ends the cycle works on what the
assignment left. -/
theorem timerLoadsAndStores : Obligations.TimerLoadsAndStores := by
  refine ⟨encodes_ldVxDt, encodes_ldDtVx, encodes_ldStVx, fun x s => ⟨?readDt, ?writeDt, ?writeSt⟩,
    fun x s hs => ⟨fun hd => ?readDtCycle, fun hd => ?writeDtCycle, fun hd => ?writeStCycle⟩⟩
  case readDt => exact ⟨_, rfl, s.setV_V_same x s.dt, rfl, onlyChanges_setV_advance s x s.dt⟩
  case writeDt => exact ⟨_, rfl, rfl, rfl, onlyChanges_setDt_advance s (s.V x)⟩
  case writeSt => exact ⟨_, rfl, rfl, rfl, onlyChanges_setSt_advance s (s.V x)⟩
  all_goals have hr : s.halted = false := State.not_halted_iff.2 hs
  case readDtCycle =>
    exact ⟨_, step_of_cycle (cycle_of_completed_instr hr hd rfl hr), s.beginCycle.setV_V_same x s.dt,
      tickDown_toNat s.dt⟩
  case writeDtCycle =>
    exact ⟨_, step_of_cycle (cycle_of_completed_instr hr hd rfl hr), tickDown_toNat (s.V x)⟩
  case writeStCycle =>
    exact ⟨_, _, cycle_of_completed_instr hr hd rfl hr, tickDown_toNat (s.V x), State.tickBeeps_iff⟩

end Sys2Proof.Machine
end

section
/-! The rows of LD I, LD F, LD B and the two block transfers (30_encoding.md R75). -/

namespace Sys2Proof.Machine

theorem encodes_ldI : Encodes 0xA000#16 0xF000#16 (fun w => .ldI (fieldNNN w)) :=
  encodes_of_fieldF (p := 0xA) (by decide) (fun w hF => by simp only [decodeWord, hF])
    fun _ => by simp [Instr.row, fieldF_eq]

theorem encodes_ldF : Encodes 0xF029#16 0xF0FF#16 (fun w => .ldF (fieldX w)) :=
  encodes_of_fieldLow_familyF (k := 0x29) (by decide) (fun w hlow => by simp only [decodeFamilyF, hlow]) fun _ => rfl

theorem encodes_ldB : Encodes 0xF033#16 0xF0FF#16 (fun w => .ldB (fieldX w)) :=
  encodes_of_fieldLow_familyF (k := 0x33) (by decide) (fun w hlow => by simp only [decodeFamilyF, hlow]) fun _ => rfl

theorem encodes_storeRegs : Encodes 0xF055#16 0xF0FF#16 (fun w => .storeRegs (fieldX w)) :=
  encodes_of_fieldLow_familyF (k := 0x55) (by decide) (fun w hlow => by simp only [decodeFamilyF, hlow]) fun _ => rfl

theorem encodes_loadRegs : Encodes 0xF065#16 0xF0FF#16 (fun w => .loadRegs (fieldX w)) :=
  encodes_of_fieldLow_familyF (k := 0x65) (by decide) (fun w hlow => by simp only [decodeFamilyF, hlow]) fun _ => rfl

end Sys2Proof.Machine
end

section
/-! What index and memory instructions compute, and how a frame grows with each of their updates: a frame that allows an
update is kept by it, so an instruction's frame follows its updates one by one. -/

namespace Sys2Proof.Machine

namespace State

/-- Consecutive bytes put in memory from an address up, as LD B and LD [I] do (20_memory.md R51). -/
def writeBytes (s : State) (a : Nat) (bs : List Byte) : State := { s with mem := s.mem.writeList a bs }

/-- Registers assigned one after another, each from a function of its number, as LD Vx, [I] does. -/
def assignRegs (s : State) (f : Reg → Byte) (rs : List Reg) : State := rs.foldl (fun t r => t.setV r (f r)) s

theorem writeBytes_memRead_at {s : State} (hs : s.mem.wf = true) (a : Nat) {bs : List Byte} (hl : bs.length ≤ 4096)
    {j : Nat} (hj : j < bs.length) : (s.writeBytes a bs).memRead (a + j) = bs[j] :=
  Memory.read_writeList_at bs a j hs hl hj

theorem writeBytes_memRead_other {s : State} (hs : s.mem.wf = true) (a : Nat) {bs : List Byte} {c : Nat}
    (hc : ∀ j, j < bs.length → (a + j) % 4096 ≠ c % 4096) : (s.writeBytes a bs).memRead c = s.memRead c :=
  Memory.read_writeList_other bs a (c % 4096) hs hc

theorem assignRegs_V_of_mem (s : State) (f : Reg → Byte) {rs : List Reg} {r : Reg} (hr : r ∈ rs) :
    (s.assignRegs f rs).V r = f r :=
  ((foldl_setV f rs s).1 r).trans (if_pos hr)

theorem assignRegs_pc (s : State) (f : Reg → Byte) (rs : List Reg) : (s.assignRegs f rs).pc = s.pc := by
  rw [assignRegs, (foldl_setV f rs s).2]

/-- The whole of V[X] times 5 is at most 1275, so it does not wrap (45_index_memory.md R202). -/
theorem fontAddress_toNat (s : State) (x : Reg) : (s.fontAddress x).toNat = (s.V x).toNat * 5 := by
  have := (s.V x).isLt
  rw [fontAddress, BitVec.toNat_ofNat, Config.glyphBytes]
  omega

theorem indexPast_toNat (s : State) (x : Reg) : (s.indexPast x).toNat = (s.i.toNat + x.val + 1) % 65536 := by
  rw [indexPast, BitVec.toNat_add, BitVec.toNat_ofNat]
  omega

end State

@[simp] theorem bcdDigits_length (b : Byte) : (bcdDigits b).length = 3 := rfl

/-- A decimal digit of a byte is below 256, so a byte holds it (45_index_memory.md R203). -/
theorem bcdDigits_toNat (b : Byte) :
    (bcdDigits b)[0].toNat = b.toNat / 100 ∧ (bcdDigits b)[1].toNat = b.toNat / 10 % 10 ∧
      (bcdDigits b)[2].toNat = b.toNat % 10 := by
  have := b.isLt
  simp only [bcdDigits, List.getElem_cons_zero, List.getElem_cons_succ, BitVec.toNat_ofNat]
  omega

namespace OnlyChanges

variable {c : Changes} {s t : State}

theorem refl (c : Changes) (s : State) : OnlyChanges c s s := by simp [OnlyChanges]

/-- pc stands outside every frame. -/
theorem advance (h : OnlyChanges c s t) : OnlyChanges c s t.advance := h

theorem setI (h : OnlyChanges c s t) (hc : c.idx = true) (w : Word) : OnlyChanges c s (t.setI w) := by
  obtain ⟨hregs, -, hrest⟩ := h
  exact ⟨hregs, fun hidx => absurd hc (by simp [hidx]), hrest⟩

theorem setV (h : OnlyChanges c s t) {r : Reg} (hr : r ∈ c.regs) (b : Byte) : OnlyChanges c s (t.setV r b) := by
  obtain ⟨hregs, hrest⟩ := h
  refine ⟨fun q hq => ?_, hrest⟩
  have hne : q ≠ r := fun e => hq (e ▸ hr)
  rw [t.setV_V_of_ne hne, hregs q hq]

theorem assignRegs (h : OnlyChanges c s t) (f : Reg → Byte) {rs : List Reg} (hrs : ∀ r ∈ rs, r ∈ c.regs) :
    OnlyChanges c s (t.assignRegs f rs) :=
  List.foldlRecOn rs _ h fun _ hu r hr => hu.setV (hrs r hr) (f r)

theorem writeBytes (h : OnlyChanges c s t) (ht : t.mem.wf = true) (a : Nat) {bs : List Byte}
    (hbs : ∀ j, j < bs.length → (a + j) % 4096 ∈ c.bytes) : OnlyChanges c s (t.writeBytes a bs) := by
  obtain ⟨hregs, hidx, hstack, hdt, hst, hkey, hscreen, hbytes, hrest⟩ := h
  refine ⟨hregs, hidx, hstack, hdt, hst, hkey, hscreen, fun k hk => ?_, hrest⟩
  have hne : ∀ j, j < bs.length → (a + j) % 4096 ≠ k % 4096 := fun j hj e => hk (e ▸ hbs j hj)
  rw [State.writeBytes_memRead_other ht a hne, hbytes k hk]

end OnlyChanges

/-- Byte `j` of a block of `n` bytes stands in the frame of the block. -/
theorem mem_blockAddresses (a : Nat) {n j : Nat} (hj : j < n) :
    (a + j) % 4096 ∈ (List.range n).map (fun j => (a + j) % 4096) :=
  List.mem_map_of_mem (List.mem_range.2 hj)

end Sys2Proof.Machine
end

section
/-! Index loads, and the three instructions that move bytes between registers and memory (45_index_memory.md R200, R202 to
R205). -/

namespace Sys2Proof.Machine

theorem exec_ldB (x : Reg) (s : State) :
    exec (.ldB x) s = .next (s.writeBytes s.i.toNat (bcdDigits (s.V x))).advance := rfl

theorem exec_storeRegs (x : Reg) (s : State) :
    exec (.storeRegs x) s = .next ((s.writeBytes s.i.toNat (s.valuesUpTo x)).setI (s.indexPast x)).advance := rfl

theorem exec_loadRegs (x : Reg) (s : State) :
    exec (.loadRegs x) s =
      .next ((s.assignRegs (fun r => s.memRead (s.i.toNat + r.val)) (regsUpTo x)).setI (s.indexPast x)).advance := rfl

/-- Settles O52: each assigns I one value, NNN or the font address. -/
theorem indexLoads : Obligations.IndexLoads := by
  refine ⟨encodes_ldI, encodes_ldF, fun nnn s => ?ldI, fun x s => ?ldF⟩
  case ldI => exact ⟨_, rfl, addrOperand_toNat nnn, rfl, ((OnlyChanges.refl _ s).setI rfl _).advance⟩
  case ldF => exact ⟨_, rfl, s.fontAddress_toNat x, rfl, ((OnlyChanges.refl _ s).setI rfl _).advance⟩

/-- Settles O54: the three bytes written are the list of digits, and a byte that no write covers is as before. -/
theorem storeBcdWritesThreeDigits : Obligations.StoreBcdWritesThreeDigits := by
  refine ⟨encodes_ldB, fun x s hs => ?_⟩
  have hlen : (bcdDigits (s.V x)).length ≤ 4096 := by rw [bcdDigits_length]; decide
  have hread : ∀ j (hj : j < 3), (s.writeBytes s.i.toNat (bcdDigits (s.V x))).memRead (s.i.toNat + j) =
      (bcdDigits (s.V x))[j] := fun _ hj => State.writeBytes_memRead_at hs _ hlen hj
  obtain ⟨hundreds, tens, ones⟩ := bcdDigits_toNat (s.V x)
  refine ⟨_, exec_ldB x s, ?hundreds, ?tens, ?ones, rfl, ?frame⟩
  case hundreds => exact (congrArg BitVec.toNat (hread 0 (by decide))).trans hundreds
  case tens => exact (congrArg BitVec.toNat (hread 1 (by decide))).trans tens
  case ones => exact (congrArg BitVec.toNat (hread 2 (by decide))).trans ones
  case frame => exact ((OnlyChanges.refl _ s).writeBytes hs _ fun _ hj => mem_blockAddresses _ hj).advance

/-- Settles O55: value `j` of the block is register `j`, and I moves past the block. -/
theorem storeRegistersWritesABlock : Obligations.StoreRegistersWritesABlock := by
  refine ⟨encodes_storeRegs, fun x s hs => ⟨_, exec_storeRegs x s, fun r hr => ?byte, s.indexPast_toNat x, rfl, ?frame⟩⟩
  case byte =>
    have hlen : (s.valuesUpTo x).length ≤ 4096 := by rw [valuesUpTo_length]; omega
    have hj : r.val < (s.valuesUpTo x).length := by rw [valuesUpTo_length]; exact Nat.lt_succ_of_le hr
    exact (State.writeBytes_memRead_at hs _ hlen hj).trans (valuesUpTo_getElem s x r.val hj)
  case frame =>
    exact (((OnlyChanges.refl _ s).writeBytes hs _ fun j hj =>
      mem_blockAddresses _ (valuesUpTo_length s x ▸ hj)).setI rfl _).advance

/-- Settles O56: the registers up to X are those assigned, each from its own byte, and I moves past the block. -/
theorem loadRegistersReadsABlock : Obligations.LoadRegistersReadsABlock := by
  refine ⟨encodes_loadRegs, fun x s => ⟨_, exec_loadRegs x s, fun r hr => ?reg, s.indexPast_toNat x, ?pc, ?frame⟩⟩
  case reg => exact s.assignRegs_V_of_mem _ ((mem_regsUpTo x r).2 hr)
  case pc => exact congrArg (· + 2) (s.assignRegs_pc _ _)
  case frame =>
    have hregs : ∀ r ∈ regsUpTo x, r ∈ (List.finRange 16).filter (fun r => decide (r ≤ x)) := by
      simp [mem_regsUpTo]
    exact (((OnlyChanges.refl _ s).assignRegs _ hregs).setI rfl _).advance

end Sys2Proof.Machine
end

section
/-! Jumps and skips touch the control state alone: pc, the stack, and the fault status when they fault
(30_encoding.md R82, R83; 60_exceptions.md R231). -/

namespace Sys2Proof.Machine

namespace State

/-- `s` with the pc, the stack and the fault status of `t`. -/
def withControl (s t : State) : State :=
  { s with
    pc := t.pc, stack := t.stack, sp := t.sp
    faultCause := t.faultCause, faultPc := t.faultPc, faultWord := t.faultWord }

theorem skipIf_eq_withControl (s : State) (c : Bool) : s.skipIf c = s.withControl (s.skipIf c) := by
  rw [skipIf_eq]
  rfl

theorem push_eq_withControl {s t : State} {w : Word} (h : s.push w = some t) : t = s.withControl t := by
  unfold push at h
  split at h <;> cases h
  rfl

theorem pop_eq_withControl {s t : State} {w : Word} (h : s.pop = some (w, t)) : t = s.withControl t := by
  unfold pop at h
  split at h <;> cases h
  rfl

end State

theorem execRet_eq_withControl {s t : State} (h : execRet s = .next t) : t = s.withControl t := by
  unfold execRet at h
  split at h <;> cases h
  · next hpop =>
    rw [State.pop_eq_withControl hpop]
    rfl
  · rfl

theorem execCall_eq_withControl {nnn : BitVec 12} {s t : State} (h : execCall nnn s = .next t) :
    t = s.withControl t := by
  unfold execCall at h
  split at h <;> cases h
  · next hpush =>
    rw [State.push_eq_withControl hpush]
    rfl
  · rfl

/-- SKP and SKNP skip on a condition or raise the key index fault (44_keys_timers.md R180, R181). -/
theorem keySkip_cases {x : Reg} {s t : State} (h : execSkp x s = .next t ∨ execSknp x s = .next t) :
    (∃ c, t = s.skipIf c) ∨ t = s.takeFault .keyIndexRange := by
  cases hk : s.keyOperand x with
  | some k =>
    simp only [execSkp, execSknp, hk, Host.Outcome.next.injEq] at h
    exact .inl (h.elim (fun e => ⟨_, e.symm⟩) fun e => ⟨_, e.symm⟩)
  | none =>
    simp only [execSkp, execSknp, hk, or_self, Host.Outcome.next.injEq] at h
    exact .inr h.symm

theorem keySkip_eq_withControl {x : Reg} {s t : State} (h : execSkp x s = .next t ∨ execSknp x s = .next t) :
    t = s.withControl t := by
  obtain ⟨c, rfl⟩ | rfl := keySkip_cases h
  · exact s.skipIf_eq_withControl c
  · rfl

/-- Whether it faults or not, a jump or a skip leaves everything outside the control state as it was. -/
theorem exec_eq_withControl {i : Instr} {s t : State} (hi : i.isBranch = true ∨ i.isSkip = true)
    (h : exec i s = .next t) : t = s.withControl t := by
  cases i with
  | jp | jpV0 =>
    cases h
    rfl
  | ret => exact execRet_eq_withControl h
  | call nnn => exact execCall_eq_withControl h
  | seByte | sneByte | seReg | sneReg =>
    cases h
    exact s.skipIf_eq_withControl _
  | skp x => exact keySkip_eq_withControl (.inl h)
  | sknp x => exact keySkip_eq_withControl (.inr h)
  | _ => simp [Instr.isBranch, Instr.isSkip] at hi

end Sys2Proof.Machine
end

section
/-! What a completed cycle does to the timers: the instruction's write, if any, then the tick (60_exceptions.md R243,
R244). -/

namespace Sys2Proof.Machine

namespace State

/-- DT and ST, the two values the tick works on. -/
def timers (s : State) : Byte × Byte := (s.dt, s.st)

theorem withControl_timers (s t : State) : (s.withControl t).timers = s.timers := rfl

theorem assignRegs_timers (s : State) (f : Reg → Byte) (rs : List Reg) : (s.assignRegs f rs).timers = s.timers := by
  rw [assignRegs, (foldl_setV f rs s).2]
  rfl

@[simp] theorem endCycle_faultCause (s : State) : s.endCycle.faultCause = s.faultCause := by
  cases h : s.halted with
  | true => rw [endCycle_of_halted h]
  | false => rw [endCycle_of_running h, timerTick_faultCause]

end State

/-- DT and ST as the execution of a decoded word leaves them: LD DT and LD ST write V[X] (44_keys_timers.md R184, R185),
everything else leaves both. -/
def timersAfter : Decoded → State → Byte × Byte
  | .instr (.ldDtVx x), s => (s.V x, s.st)
  | .instr (.ldStVx x), s => (s.dt, s.V x)
  | _, s => s.timers

theorem timersAfter_dt_of_ne {d : Decoded} (h : ∀ x, d ≠ .instr (.ldDtVx x)) (s : State) :
    (timersAfter d s).1 = s.dt := by
  unfold timersAfter
  split
  · next x => exact absurd rfl (h x)
  · rfl
  · rfl

theorem timersAfter_st_of_ne {d : Decoded} (h : ∀ x, d ≠ .instr (.ldStVx x)) (s : State) :
    (timersAfter d s).2 = s.st := by
  unfold timersAfter
  split
  · rfl
  · next x => exact absurd rfl (h x)
  · rfl

theorem execLdVxK_timers {x : Reg} {s t : State} (h : execLdVxK x s = .next t) : t.timers = s.timers := by
  unfold execLdVxK at h
  split at h <;> cases h <;> rfl

theorem exec_timers {i : Instr} {s t : State} (h : exec i s = .next t) : t.timers = timersAfter (.instr i) s := by
  cases i with
  | jp | jpV0 | ret | call =>
    exact (congrArg State.timers (exec_eq_withControl (.inl rfl) h)).trans (s.withControl_timers t)
  | seByte | sneByte | seReg | sneReg | skp | sknp =>
    exact (congrArg State.timers (exec_eq_withControl (.inr rfl) h)).trans (s.withControl_timers t)
  | ldVxK x => exact execLdVxK_timers h
  | loadRegs x =>
    cases (exec_loadRegs x s).symm.trans h
    exact s.assignRegs_timers _ _
  | _ =>
    cases h
    rfl

theorem execDecoded_timers {d : Decoded} {s t : State} (h : execDecoded d s = .next t) :
    t.timers = timersAfter d s := by
  cases d with
  | instr i => exact exec_timers h
  | unknown why =>
    cases h
    rfl

/-- A cycle that raises no fault is the execution of its word, whatever the word decodes to, and then the tick. -/
theorem cycle_completed {s t : State} {o : Outputs} (hs : s.faultCause = .none) (h : cycle s = .next (t, o))
    (ht : t.faultCause = .none) :
    ∃ u, execDecoded (decodeWord s.fetchWord) s.beginCycle = .next u ∧ t = u.timerTick ∧ o.beep = u.tickBeeps := by
  rw [cycle, State.not_halted_iff.2 hs, if_neg Bool.false_ne_true] at h
  obtain ⟨u, hu, rfl, rfl⟩ := finishCycle_eq_next.1 h
  have hr : u.halted = false := State.not_halted_iff.2 (u.endCycle_faultCause.symm.trans ht)
  refine ⟨u, hu, endCycle_of_running hr, ?beep⟩
  case beep => rw [outputsOf, hr, if_neg Bool.false_ne_true]

/-- Settles O12: the values at the tick are those the word's execution leaves, and the tick counts them down. -/
theorem timersTickEveryCompletedCycle : Obligations.TimersTickEveryCompletedCycle := by
  intro s t o hs h ht
  obtain ⟨u, hu, rfl, hbeep⟩ := cycle_completed hs h ht
  obtain ⟨hdt, hst⟩ := Prod.ext_iff.1 (execDecoded_timers hu)
  refine ⟨u.dt, u.st, fun hne => ?dtKept, fun x hd => ?dtWritten, fun hne => ?stKept, fun x hd => ?stWritten,
    tickDown_toNat u.dt, tickDown_toNat u.st, ?beep⟩
  case dtKept => exact hdt.trans (timersAfter_dt_of_ne hne _)
  case dtWritten =>
    rw [hd] at hdt
    exact hdt
  case stKept => exact hst.trans (timersAfter_st_of_ne hne _)
  case stWritten =>
    rw [hd] at hst
    exact hst
  case beep => rw [hbeep, State.tickBeeps_iff]

end Sys2Proof.Machine
end

section
/-! The remaining rows of the opcode map (30_encoding.md R75): those of family 0, of family E, and the other rows that
examine the family alone. -/

namespace Sys2Proof.Machine

theorem decodeWord_of_family0 {w : Word} (hF : fieldF w = 0x0) : decodeWord w = decodeFamily0 w := by
  simp only [decodeWord, hF]

theorem decodeWord_of_familyE {w : Word} (hF : fieldF w = 0xE) : decodeWord w = decodeFamilyE w := by
  simp only [decodeWord, hF]

theorem fieldLow_row_of_decodeFamily0 {w : Word} {i : Instr} (h : decodeFamily0 w = .instr i) :
    fieldLow i.row.pattern = fieldLow w := by
  unfold decodeFamily0 at h
  split at h <;> cases h
  all_goals
    next hlow =>
      rw [hlow]
      simp [Instr.row, fieldLow_eq]

theorem fieldLow_row_of_decodeFamilyE {w : Word} {i : Instr} (h : decodeFamilyE w = .instr i) :
    fieldLow i.row.pattern = fieldLow w := by
  unfold decodeFamilyE at h
  split at h <;> cases h
  all_goals
    next hlow =>
      rw [hlow]
      simp [Instr.row, fieldLow_eq]

/-- A row that examines the family and the low byte, in a family `p` whose decoder `D` reads nothing but the low byte: a
word with that low byte decodes to the row's instruction, and no other word does. -/
theorem encodes_of_fieldLow {p k : Nat} (hp : p < 16) (hk : k < 256) {D : Word → Decoded} {f : Word → Instr}
    (hD : ∀ {w}, fieldF w = p → decodeWord w = D w)
    (hlow : ∀ {w i}, D w = .instr i → fieldLow i.row.pattern = fieldLow w)
    (hdec : ∀ w, fieldLow w = k → D w = .instr (f w))
    (hrow : ∀ w, (f w).row.pattern = BitVec.ofNat 16 (p * 4096 + k)) :
    Encodes (BitVec.ofNat 16 (p * 4096 + k)) 0xF0FF#16 f := fun w => by
  refine (and_F0FF_eq_iff w hp hk).trans ⟨fun ⟨hF, hl⟩ => ?_, fun h => ?_⟩
  · rw [hD hF, hdec w hl]
  · obtain ⟨hpF, hpl⟩ : fieldF (f w).row.pattern = p ∧ fieldLow (f w).row.pattern = k := by
      rw [hrow, fieldF_eq, fieldLow_eq, BitVec.toNat_ofNat]
      omega
    have hF : fieldF w = p := (fieldF_row_of_decodeWord h).symm.trans hpF
    rw [hD hF] at h
    exact ⟨hF, (hlow h).symm.trans hpl⟩

theorem encodes_ret : Encodes 0x00EE#16 0xF0FF#16 (fun _ => .ret) :=
  encodes_of_fieldLow (p := 0x0) (k := 0xEE) (by decide) (by decide) decodeWord_of_family0 fieldLow_row_of_decodeFamily0
    (fun w hlow => by simp only [decodeFamily0, hlow]) fun _ => rfl

theorem encodes_skp : Encodes 0xE09E#16 0xF0FF#16 (fun w => .skp (fieldX w)) :=
  encodes_of_fieldLow (p := 0xE) (k := 0x9E) (by decide) (by decide) decodeWord_of_familyE fieldLow_row_of_decodeFamilyE
    (fun w hlow => by simp only [decodeFamilyE, hlow]) fun _ => rfl

theorem encodes_sknp : Encodes 0xE0A1#16 0xF0FF#16 (fun w => .sknp (fieldX w)) :=
  encodes_of_fieldLow (p := 0xE) (k := 0xA1) (by decide) (by decide) decodeWord_of_familyE fieldLow_row_of_decodeFamilyE
    (fun w hlow => by simp only [decodeFamilyE, hlow]) fun _ => rfl

theorem encodes_ldVxK : Encodes 0xF00A#16 0xF0FF#16 (fun w => .ldVxK (fieldX w)) :=
  encodes_of_fieldLow_familyF (k := 0x0A) (by decide) (fun w hlow => by simp only [decodeFamilyF, hlow]) fun _ => rfl

theorem encodes_addI : Encodes 0xF01E#16 0xF0FF#16 (fun w => .addI (fieldX w)) :=
  encodes_of_fieldLow_familyF (k := 0x1E) (by decide) (fun w hlow => by simp only [decodeFamilyF, hlow]) fun _ => rfl

theorem encodes_call : Encodes 0x2000#16 0xF000#16 (fun w => .call (fieldNNN w)) :=
  encodes_of_fieldF (p := 0x2) (by decide) (fun w hF => by simp only [decodeWord, hF])
    fun _ => by simp [Instr.row, fieldF_eq]

theorem encodes_seReg : Encodes 0x5000#16 0xF000#16 (fun w => .seReg (fieldX w) (fieldY w)) :=
  encodes_of_fieldF (p := 0x5) (by decide) (fun w hF => by simp only [decodeWord, hF])
    fun _ => by simp [Instr.row, fieldF_eq]

theorem encodes_sneReg : Encodes 0x9000#16 0xF000#16 (fun w => .sneReg (fieldX w) (fieldY w)) :=
  encodes_of_fieldF (p := 0x9) (by decide) (fun w hF => by simp only [decodeWord, hF])
    fun _ => by simp [Instr.row, fieldF_eq]

theorem encodes_jpV0 : Encodes 0xB000#16 0xF000#16 (fun w => .jpV0 (fieldNNN w)) :=
  encodes_of_fieldF (p := 0xB) (by decide) (fun w hF => by simp only [decodeWord, hF])
    fun _ => by simp [Instr.row, fieldF_eq]

theorem encodes_rnd : Encodes 0xC000#16 0xF000#16 (fun w => .rnd (fieldX w) (fieldKK w)) :=
  encodes_of_fieldF (p := 0xC) (by decide) (fun w hF => by simp only [decodeWord, hF])
    fun _ => by simp [Instr.row, fieldF_eq]

theorem encodes_drw : Encodes 0xD000#16 0xF000#16 (fun w => .drw (fieldX w) (fieldY w) (fieldN w)) :=
  encodes_of_fieldF (p := 0xD) (by decide) (fun w hF => by simp only [decodeWord, hF])
    fun _ => by simp [Instr.row, fieldF_eq]

end Sys2Proof.Machine
end

section
/-! The whole opcode map at once: an instruction reread from a word, and the decoder and the encoder as inverses of each
other (30_encoding.md R74, R75, R77, R79). -/

namespace Sys2Proof.Machine

/-- The instruction of `i`'s row with its operands taken from the fields of `w` (30_encoding.md R72, R75). -/
def rereadFrom (w : Word) : Instr → Instr
  | .cls => .cls
  | .ret => .ret
  | .jp _ => .jp (fieldNNN w)
  | .call _ => .call (fieldNNN w)
  | .seByte _ _ => .seByte (fieldX w) (fieldKK w)
  | .sneByte _ _ => .sneByte (fieldX w) (fieldKK w)
  | .seReg _ _ => .seReg (fieldX w) (fieldY w)
  | .ldByte _ _ => .ldByte (fieldX w) (fieldKK w)
  | .addByte _ _ => .addByte (fieldX w) (fieldKK w)
  | .ldReg _ _ => .ldReg (fieldX w) (fieldY w)
  | .orReg _ _ => .orReg (fieldX w) (fieldY w)
  | .andReg _ _ => .andReg (fieldX w) (fieldY w)
  | .xorReg _ _ => .xorReg (fieldX w) (fieldY w)
  | .addReg _ _ => .addReg (fieldX w) (fieldY w)
  | .subReg _ _ => .subReg (fieldX w) (fieldY w)
  | .shr _ _ => .shr (fieldX w) (fieldY w)
  | .subnReg _ _ => .subnReg (fieldX w) (fieldY w)
  | .shl _ _ => .shl (fieldX w) (fieldY w)
  | .sneReg _ _ => .sneReg (fieldX w) (fieldY w)
  | .ldI _ => .ldI (fieldNNN w)
  | .jpV0 _ => .jpV0 (fieldNNN w)
  | .rnd _ _ => .rnd (fieldX w) (fieldKK w)
  | .drw _ _ _ => .drw (fieldX w) (fieldY w) (fieldN w)
  | .skp _ => .skp (fieldX w)
  | .sknp _ => .sknp (fieldX w)
  | .ldVxDt _ => .ldVxDt (fieldX w)
  | .ldVxK _ => .ldVxK (fieldX w)
  | .ldDtVx _ => .ldDtVx (fieldX w)
  | .ldStVx _ => .ldStVx (fieldX w)
  | .addI _ => .addI (fieldX w)
  | .ldF _ => .ldF (fieldX w)
  | .ldB _ => .ldB (fieldX w)
  | .storeRegs _ => .storeRegs (fieldX w)
  | .loadRegs _ => .loadRegs (fieldX w)

@[simp] theorem rereadFrom_row (w : Word) (i : Instr) : (rereadFrom w i).row = i.row := by cases i <;> rfl

/-- Every row of the opcode map, in both directions: a word is of an instruction's row exactly when it decodes to that
row's instruction with the word's own fields. -/
theorem encodes_row (i : Instr) : Encodes i.row.pattern i.row.mask fun w => rereadFrom w i := by
  cases i with
  | cls => exact encodes_cls
  | ret => exact encodes_ret
  | jp => exact encodes_jp
  | call => exact encodes_call
  | seByte => exact encodes_seByte
  | sneByte => exact encodes_sneByte
  | seReg => exact encodes_seReg
  | ldByte => exact encodes_ldByte
  | addByte => exact encodes_addByte
  | ldReg => exact encodes_ldReg
  | orReg => exact encodes_orReg
  | andReg => exact encodes_andReg
  | xorReg => exact encodes_xorReg
  | addReg => exact encodes_addReg
  | subReg => exact encodes_subReg
  | shr => exact encodes_shr
  | subnReg => exact encodes_subnReg
  | shl => exact encodes_shl
  | sneReg => exact encodes_sneReg
  | ldI => exact encodes_ldI
  | jpV0 => exact encodes_jpV0
  | rnd => exact encodes_rnd
  | drw => exact encodes_drw
  | skp => exact encodes_skp
  | sknp => exact encodes_sknp
  | ldVxDt => exact encodes_ldVxDt
  | ldVxK => exact encodes_ldVxK
  | ldDtVx => exact encodes_ldDtVx
  | ldStVx => exact encodes_ldStVx
  | addI => exact encodes_addI
  | ldF => exact encodes_ldF
  | ldB => exact encodes_ldB
  | storeRegs => exact encodes_storeRegs
  | loadRegs => exact encodes_loadRegs

/-! ## What a word decodes to -/

theorem rereadFrom_of_decodeFamily0 {w : Word} {i : Instr} (h : decodeFamily0 w = .instr i) : rereadFrom w i = i := by
  unfold decodeFamily0 at h
  split at h <;> cases h <;> rfl

theorem rereadFrom_of_decodeFamily8 {w : Word} {i : Instr} (h : decodeFamily8 w = .instr i) : rereadFrom w i = i := by
  unfold decodeFamily8 at h
  split at h <;> cases h <;> rfl

theorem rereadFrom_of_decodeFamilyE {w : Word} {i : Instr} (h : decodeFamilyE w = .instr i) : rereadFrom w i = i := by
  unfold decodeFamilyE at h
  split at h <;> cases h <;> rfl

theorem rereadFrom_of_decodeFamilyF {w : Word} {i : Instr} (h : decodeFamilyF w = .instr i) : rereadFrom w i = i := by
  unfold decodeFamilyF at h
  split at h <;> cases h <;> rfl

/-- The operands of a decoded instruction are the fields of its word. -/
theorem rereadFrom_of_decodeWord {w : Word} {i : Instr} (h : decodeWord w = .instr i) : rereadFrom w i = i := by
  unfold decodeWord at h
  split at h
  case h_1 => exact rereadFrom_of_decodeFamily0 h
  case h_9 => exact rereadFrom_of_decodeFamily8 h
  case h_15 => exact rereadFrom_of_decodeFamilyE h
  case h_16 => exact rereadFrom_of_decodeFamilyF h
  all_goals
    cases h
    rfl

/-- A decoded word is of its instruction's row. -/
theorem and_mask_of_decodeWord {w : Word} {i : Instr} (h : decodeWord w = .instr i) :
    w &&& i.row.mask = i.row.pattern :=
  (encodes_row i w).2 (h.trans (congrArg Decoded.instr (rereadFrom_of_decodeWord h).symm))

/-- Settles O2: a row decodes to its own instruction, and a decoded instruction has the fields of its word. -/
theorem decoderFollowsOpcodeMap : Obligations.DecoderFollowsOpcodeMap :=
  ⟨fun _ _ h => and_mask_of_decodeWord h, fun w i h => ⟨rereadFrom w i, (encodes_row i w).1 h, rereadFrom_row w i⟩⟩

/-! ## Decoding the encoding -/

theorem fieldNNN_packNNN {f : Nat} (hf : f < 16) (nnn : BitVec 12) : fieldNNN (packNNN f nnn) = nnn := by
  have := nnn.isLt
  apply BitVec.eq_of_toNat_eq
  rw [fieldNNN_toNat, packNNN_toNat hf]
  omega

theorem fieldX_packXKK {f kk : Nat} (hf : f < 16) (hk : kk < 256) (x : Reg) : fieldX (packXKK f x kk) = x := by
  have := x.isLt
  apply Fin.ext
  rw [fieldX_val, packXKK_toNat hf hk]
  omega

theorem fieldKK_packXKK {f : Nat} (hf : f < 16) (x : Reg) (kk : Byte) : fieldKK (packXKK f x kk.toNat) = kk := by
  have := kk.isLt
  apply BitVec.eq_of_toNat_eq
  rw [fieldKK_toNat, packXKK_toNat hf kk.isLt]
  omega

theorem fieldX_packXYN {f n : Nat} (hf : f < 16) (hn : n < 16) (x y : Reg) : fieldX (packXYN f x y n) = x := by
  have := x.isLt
  have := y.isLt
  apply Fin.ext
  rw [fieldX_val, packXYN_toNat hf hn]
  omega

theorem fieldY_packXYN {f n : Nat} (hf : f < 16) (hn : n < 16) (x y : Reg) : fieldY (packXYN f x y n) = y := by
  have := y.isLt
  apply Fin.ext
  rw [fieldY_val, packXYN_toNat hf hn]
  omega

theorem fieldN_packXYN {f n : Nat} (hf : f < 16) (hn : n < 16) (x y : Reg) : fieldN (packXYN f x y n) = n := by
  rw [fieldN_eq, packXYN_toNat hf hn]
  omega

/-- The encoder puts a well-formed instruction in its own row (30_encoding.md R75, R79). -/
theorem encode_and_mask {i : Instr} (hi : i.WellFormed) : encode i &&& i.row.mask = i.row.pattern := by
  cases i with
  | cls => exact Laws.EncodedInRow.cls hi
  | ret => exact Laws.EncodedInRow.ret hi
  | jp nnn => exact Laws.EncodedInRow.jp nnn hi
  | call nnn => exact Laws.EncodedInRow.call nnn hi
  | seByte x kk => exact Laws.EncodedInRow.seByte x kk hi
  | sneByte x kk => exact Laws.EncodedInRow.sneByte x kk hi
  | seReg x y => exact Laws.EncodedInRow.seReg x y hi
  | ldByte x kk => exact Laws.EncodedInRow.ldByte x kk hi
  | addByte x kk => exact Laws.EncodedInRow.addByte x kk hi
  | ldReg x y => exact Laws.EncodedInRow.ldReg x y hi
  | orReg x y => exact Laws.EncodedInRow.orReg x y hi
  | andReg x y => exact Laws.EncodedInRow.andReg x y hi
  | xorReg x y => exact Laws.EncodedInRow.xorReg x y hi
  | addReg x y => exact Laws.EncodedInRow.addReg x y hi
  | subReg x y => exact Laws.EncodedInRow.subReg x y hi
  | shr x y => exact Laws.EncodedInRow.shr x y hi
  | subnReg x y => exact Laws.EncodedInRow.subnReg x y hi
  | shl x y => exact Laws.EncodedInRow.shl x y hi
  | sneReg x y => exact Laws.EncodedInRow.sneReg x y hi
  | ldI nnn => exact Laws.EncodedInRow.ldI nnn hi
  | jpV0 nnn => exact Laws.EncodedInRow.jpV0 nnn hi
  | rnd x kk => exact Laws.EncodedInRow.rnd x kk hi
  | drw x y n => exact Laws.EncodedInRow.drw x y n hi
  | skp x => exact Laws.EncodedInRow.skp x hi
  | sknp x => exact Laws.EncodedInRow.sknp x hi
  | ldVxDt x => exact Laws.EncodedInRow.ldVxDt x hi
  | ldVxK x => exact Laws.EncodedInRow.ldVxK x hi
  | ldDtVx x => exact Laws.EncodedInRow.ldDtVx x hi
  | ldStVx x => exact Laws.EncodedInRow.ldStVx x hi
  | addI x => exact Laws.EncodedInRow.addI x hi
  | ldF x => exact Laws.EncodedInRow.ldF x hi
  | ldB x => exact Laws.EncodedInRow.ldB x hi
  | storeRegs x => exact Laws.EncodedInRow.storeRegs x hi
  | loadRegs x => exact Laws.EncodedInRow.loadRegs x hi

/-- The operands of a well-formed instruction stand in the fields of its encoding, format by format (R72). -/
theorem rereadFrom_encode {i : Instr} (hi : i.WellFormed) : rereadFrom (encode i) i = i := by
  cases i with
  | cls | ret => rfl
  | jp | call | ldI | jpV0 => simp (disch := decide) only [rereadFrom, encode, fieldNNN_packNNN]
  | seByte x kk | sneByte x kk | ldByte x kk | addByte x kk | rnd x kk =>
    have hk : kk.toNat < 256 := kk.isLt
    simp (disch := omega) only [rereadFrom, encode, fieldX_packXKK, fieldKK_packXKK]
  | seReg | sneReg | ldReg | orReg | andReg | xorReg | addReg | subReg | shr | subnReg | shl =>
    simp (disch := decide) only [rereadFrom, encode, fieldX_packXYN, fieldY_packXYN]
  | drw x y n =>
    have hn : n < 16 := of_decide_eq_true hi
    simp (disch := omega) only [rereadFrom, encode, fieldX_packXYN, fieldY_packXYN, fieldN_packXYN]
  | skp | sknp | ldVxDt | ldVxK | ldDtVx | ldStVx | addI | ldF | ldB | storeRegs | loadRegs =>
    simp (disch := decide) only [rereadFrom, encode, fieldX_packXKK]

/-- Settles O4: the encoding lies in the instruction's row, so it decodes to that row's instruction with the
encoding's own fields, and those are the operands. -/
theorem decodeOfEncodeIsTheInstruction : Obligations.DecodeOfEncodeIsTheInstruction := by
  intro i hi
  calc decodeWord (encode i)
      = .instr (rereadFrom (encode i) i) := (encodes_row i (encode i)).1 (encode_and_mask hi)
    _ = .instr i := by rw [rereadFrom_encode hi]

/-! ## Encoding what a word decodes to -/

theorem packNNN_fieldNNN {w : Word} {f : Nat} (hF : fieldF w = f) : packNNN f (fieldNNN w) = w := by
  have hf : f < 16 := hF ▸ fieldF_lt w
  apply BitVec.eq_of_toNat_eq
  rw [packNNN_toNat hf, fieldNNN_toNat]
  rw [fieldF_eq] at hF
  omega

theorem packXKK_fieldX {w : Word} {f k : Nat} (h : fieldF w = f ∧ fieldLow w = k) : packXKK f (fieldX w) k = w := by
  obtain ⟨hF, hk⟩ := h
  have hf : f < 16 := hF ▸ fieldF_lt w
  rw [fieldF_eq] at hF
  rw [fieldLow_eq] at hk
  apply BitVec.eq_of_toNat_eq
  rw [packXKK_toNat hf (by omega), fieldX_val]
  omega

theorem packXKK_fieldX_fieldKK {w : Word} {f : Nat} (hF : fieldF w = f) :
    packXKK f (fieldX w) (fieldKK w).toNat = w :=
  packXKK_fieldX ⟨hF, by rw [fieldKK_toNat, fieldLow_eq]⟩

theorem packXYN_fieldX_fieldY {w : Word} {f n : Nat} (h : fieldF w = f ∧ fieldN w = n) :
    packXYN f (fieldX w) (fieldY w) n = w := by
  obtain ⟨hF, hN⟩ := h
  have hf : f < 16 := hF ▸ fieldF_lt w
  rw [fieldF_eq] at hF
  rw [fieldN_eq] at hN
  apply BitVec.eq_of_toNat_eq
  rw [packXYN_toNat hf (by omega), fieldX_val, fieldY_val]
  omega

/-- With the low nibble 0 two registers pack to the word without its ignored N (R77). -/
theorem packXYN_zero_fieldX_fieldY {w : Word} {f : Nat} (hF : fieldF w = f) :
    packXYN f (fieldX w) (fieldY w) 0 = w &&& 0xFFF0#16 := by
  have hf : f < 16 := hF ▸ fieldF_lt w
  rw [fieldF_eq] at hF
  apply BitVec.eq_of_toNat_eq
  rw [packXYN_toNat hf (by decide), fieldX_val, fieldY_val, toNat_and_FFF0]
  omega

/-- Every bit is used: the encoding is the word. -/
theorem and_FFFF (w : Word) : w &&& 0xFFFF#16 = w := BitVec.and_allOnes

theorem encode_rereadFrom {w : Word} {i : Instr} (h : w &&& i.row.mask = i.row.pattern) :
    encode (rereadFrom w i) = w &&& i.usedBits := by
  cases i with
  | cls | ret => exact h.symm
  | seReg | sneReg =>
    refine packXYN_zero_fieldX_fieldY ?_
    exact (and_F000_eq_iff w (by decide)).1 h
  | jp | call | ldI | jpV0 =>
    refine (packNNN_fieldNNN ?_).trans (and_FFFF w).symm
    exact (and_F000_eq_iff w (by decide)).1 h
  | seByte | sneByte | ldByte | addByte | rnd =>
    refine (packXKK_fieldX_fieldKK ?_).trans (and_FFFF w).symm
    exact (and_F000_eq_iff w (by decide)).1 h
  | drw =>
    refine (packXYN_fieldX_fieldY ⟨?_, rfl⟩).trans (and_FFFF w).symm
    exact (and_F000_eq_iff w (by decide)).1 h
  | ldReg | orReg | andReg | xorReg | addReg | subReg | shr | subnReg | shl =>
    refine (packXYN_fieldX_fieldY ?_).trans (and_FFFF w).symm
    exact (and_F00F_eq_iff w (by decide) (by decide)).1 h
  | skp | sknp | ldVxDt | ldVxK | ldDtVx | ldStVx | addI | ldF | ldB | storeRegs | loadRegs =>
    refine (packXKK_fieldX ?_).trans (and_FFFF w).symm
    exact (and_F0FF_eq_iff w (by decide) (by decide)).1 h

/-- The one check is DRW's, and N has four bits. -/
theorem rereadFrom_wellFormed (w : Word) (i : Instr) : (rereadFrom w i).WellFormed := by
  cases i with
  | drw =>
    have hN : fieldN w < 16 := by
      rw [fieldN_eq]
      omega
    exact decide_eq_true hN
  | _ => rfl

/-- Settles O5: a decoded instruction is its row's with the fields of the word, which pack to the word again but for the
bits the row ignores. -/
theorem encodeOfDecodeKeepsUsedBits : Obligations.EncodeOfDecodeKeepsUsedBits := by
  intro w i h
  have hi := rereadFrom_of_decodeWord h
  exact ⟨hi ▸ rereadFrom_wellFormed w i,
    (congrArg encode hi).symm.trans (encode_rereadFrom (and_mask_of_decodeWord h))⟩

/-! ## The Unknown words -/

theorem decodeFamily0_unknown_iff (w : Word) : (∃ why, decodeFamily0 w = .unknown why) ↔ fieldLow w ∉ [0xE0, 0xEE] := by
  unfold decodeFamily0
  split <;> simp_all

theorem decodeFamily8_unknown_iff (w : Word) :
    (∃ why, decodeFamily8 w = .unknown why) ↔ fieldN w ∈ [0x8, 0x9, 0xA, 0xB, 0xC, 0xD, 0xF] := by
  have hN : fieldN w < 16 := by
    rw [fieldN_eq]
    omega
  unfold decodeFamily8
  split <;> grind

theorem decodeFamilyE_unknown_iff (w : Word) : (∃ why, decodeFamilyE w = .unknown why) ↔ fieldLow w ∉ [0x9E, 0xA1] := by
  unfold decodeFamilyE
  split <;> simp_all

theorem decodeFamilyF_unknown_iff (w : Word) :
    (∃ why, decodeFamilyF w = .unknown why) ↔
      fieldLow w ∉ [0x07, 0x0A, 0x15, 0x18, 0x1E, 0x29, 0x33, 0x55, 0x65] := by
  unfold decodeFamilyF
  split <;> simp_all

/-- Settles O3: the four families with an Unknown group answer by their own decoders, the other twelve never. -/
theorem unknownWordsAreTheFourGroups : Obligations.UnknownWordsAreTheFourGroups := by
  intro w
  unfold decodeWord
  split
  case h_1 hF => simp [hF, decodeFamily0_unknown_iff]
  case h_9 hF => simp [hF, decodeFamily8_unknown_iff]
  case h_15 hF => simp [hF, decodeFamilyE_unknown_iff]
  case h_16 =>
    have hlt := fieldF_lt w
    have hF : fieldF w = 0xF := by grind
    simp [hF, decodeFamilyF_unknown_iff]
  all_goals
    next hF => simp [hF]

/-- Settles O6: the decoder run on each word. -/
theorem writtenOutWordsDecode : Obligations.WrittenOutWordsDecode := by
  unfold Obligations.WrittenOutWordsDecode
  decide

end Sys2Proof.Machine
end

section
/-! What the instructions with more than one outcome answer, one equation per outcome (42_control_flow.md R120, R122;
44_keys_timers.md R180, R181, R183). -/

namespace Sys2Proof.Machine

variable {s : State}

theorem sp_pos_of_ne_zero (h : s.sp ≠ 0) : 0 < s.sp.val := Nat.pos_of_ne_zero fun e => h (Fin.ext e)

theorem sp_lt_of_ne_full (h : s.sp ≠ 16) : s.sp.val < 16 := by
  have hne : s.sp.val ≠ 16 := fun e => h (Fin.ext e)
  omega

theorem exec_ret_of_pos (h : 0 < s.sp.val) :
    exec .ret s =
      .next (({ s with sp := ⟨s.sp.val - 1, by omega⟩ } : State).setPc (s.stack[s.sp.val - 1]'(by omega))).advance := by
  simp only [exec, execRet, s.pop_of_pos h]

theorem exec_ret_of_empty (h : s.sp = 0) : exec .ret s = .next (s.takeFault .stackUnderflow) := by
  simp only [exec, execRet, s.pop_of_empty h]

theorem exec_call_of_lt (nnn : BitVec 12) (h : s.sp.val < 16) :
    exec (.call nnn) s =
      .next (({ s with stack := s.stack.set s.sp.val s.pc, sp := ⟨s.sp.val + 1, by omega⟩ } : State).setPc
        (addrOperand nnn)) := by
  simp only [exec, execCall, s.push_of_lt s.pc h]

theorem exec_call_of_full (nnn : BitVec 12) (h : s.sp = 16) :
    exec (.call nnn) s = .next (s.takeFault .stackOverflow) := by
  simp only [exec, execCall, s.push_of_full s.pc h]

theorem keyOperand_of_eq {x : Reg} {k : Fin 16} (h : (s.V x).toNat = k.val) : s.keyOperand x = some k := by
  rw [s.keyOperand_of_lt (h ▸ k.isLt)]
  exact congrArg some (Fin.ext h)

theorem exec_skp_of_key {x : Reg} {k : Fin 16} (h : (s.V x).toNat = k.val) :
    exec (.skp x) s = .next (s.skipIf (s.keyDown k)) := by
  simp only [exec, execSkp, keyOperand_of_eq h]

theorem exec_sknp_of_key {x : Reg} {k : Fin 16} (h : (s.V x).toNat = k.val) :
    exec (.sknp x) s = .next (s.skipIf (!s.keyDown k)) := by
  simp only [exec, execSknp, keyOperand_of_eq h]

theorem exec_skp_of_gt {x : Reg} (h : (s.V x).toNat > 0xF) :
    exec (.skp x) s = .next (s.takeFault .keyIndexRange) := by
  simp only [exec, execSkp, s.keyOperand_of_gt h]

theorem exec_sknp_of_gt {x : Reg} (h : (s.V x).toNat > 0xF) :
    exec (.sknp x) s = .next (s.takeFault .keyIndexRange) := by
  simp only [exec, execSknp, s.keyOperand_of_gt h]

theorem exec_ldVxK_of_some (x : Reg) {k : Fin 16} (h : s.lowestKey = some k) :
    exec (.ldVxK x) s = .next (s.setV x (BitVec.ofNat 8 k.val)).advance := by
  simp only [exec, execLdVxK, h]

theorem exec_ldVxK_of_none (x : Reg) (h : s.lowestKey = none) : exec (.ldVxK x) s = .next s := by
  simp only [exec, execLdVxK, h]

end Sys2Proof.Machine
end

section
/-! More updates that keep a frame that allows them: the screen, the timers, the stack, the count of draws, and memory
anywhere. -/

namespace Sys2Proof.Machine.OnlyChanges

variable {c : Changes} {s t : State}

/-- pc stands outside every frame. -/
theorem setPc (h : OnlyChanges c s t) (w : Word) : OnlyChanges c s (t.setPc w) := h

theorem setDt (h : OnlyChanges c s t) (hc : c.dt = true) (b : Byte) : OnlyChanges c s (t.setDt b) := by
  obtain ⟨hregs, hidx, hstack, -, hrest⟩ := h
  exact ⟨hregs, hidx, hstack, fun hdt => absurd hc (by simp [hdt]), hrest⟩

theorem setSt (h : OnlyChanges c s t) (hc : c.st = true) (b : Byte) : OnlyChanges c s (t.setSt b) := by
  obtain ⟨hregs, hidx, hstack, hdt, -, hrest⟩ := h
  exact ⟨hregs, hidx, hstack, hdt, fun hst => absurd hc (by simp [hst]), hrest⟩

theorem setStack (h : OnlyChanges c s t) (hc : c.stack = true) (stack : Vector Word 16) (sp : Fin 17) :
    OnlyChanges c s { t with stack := stack, sp := sp } := by
  obtain ⟨hregs, hidx, -, hrest⟩ := h
  exact ⟨hregs, hidx, fun hstack => absurd hc (by simp [hstack]), hrest⟩

theorem setFb (h : OnlyChanges c s t) (hc : c.screen = true) (fb : Framebuffer) : OnlyChanges c s (t.setFb fb) := by
  obtain ⟨hregs, hidx, hstack, hdt, hst, hkey, -, hrest⟩ := h
  exact ⟨hregs, hidx, hstack, hdt, hst, hkey, fun hscreen => absurd hc (by simp [hscreen]), hrest⟩

theorem noteDraw (h : OnlyChanges c s t) (hc : c.draws = true) : OnlyChanges c s t.noteDraw := by
  obtain ⟨hregs, hidx, hstack, hdt, hst, hkey, hscreen, hmem, hfault, -, hstarted⟩ := h
  exact ⟨hregs, hidx, hstack, hdt, hst, hkey, hscreen, hmem, hfault,
    fun hdraws => absurd hc (by simp [hdraws]), hstarted⟩

/-- A frame that allows every byte is kept by any write, whatever the form of memory. -/
theorem writeBytes_of_all (h : OnlyChanges c s t) (hc : ∀ a, a % 4096 ∈ c.bytes) (a : Nat) (bs : List Byte) :
    OnlyChanges c s (t.writeBytes a bs) := by
  obtain ⟨hregs, hidx, hstack, hdt, hst, hkey, hscreen, -, hrest⟩ := h
  exact ⟨hregs, hidx, hstack, hdt, hst, hkey, hscreen, fun k hk => absurd (hc k) hk, hrest⟩

end Sys2Proof.Machine.OnlyChanges
end

section
/-! Control flow, keys, RND and ADD I, instruction by instruction. -/

namespace Sys2Proof.Machine

/-- Settles O32: the pop's slot into pc and 2 more, and an empty stack is the fault. -/
theorem returnPopsAndAddsTwo : Obligations.ReturnPopsAndAddsTwo := by
  refine ⟨encodes_ret, fun s h => ?pops, fun s h => exec_ret_of_empty h⟩
  case pops =>
    exact ⟨_, exec_ret_of_pos h, rfl, rfl, rfl, (((OnlyChanges.refl _ s).setStack rfl s.stack _).setPc _).advance⟩

/-- Settles O34: the push writes the slot at sp and no other, and a full stack is the fault. -/
theorem callPushesItsOwnAddress : Obligations.CallPushesItsOwnAddress := by
  refine ⟨encodes_call, fun nnn s h => ?pushes, fun nnn s h => exec_call_of_full nnn h⟩
  case pushes =>
    refine ⟨_, exec_call_of_lt nnn h, addrOperand_toNat nnn, rfl, ?slot, fun j hj => ?others,
      ((OnlyChanges.refl _ s).setStack rfl _ _).setPc _⟩
    case slot => exact Vector.getElem_set_self _
    case others => exact Vector.getElem_set_ne h j.isLt (Ne.symm hj)

/-- Settles O35: RET pops the slot that CALL has just pushed, and sp is back where it was. -/
theorem callThenReturnComesBack : Obligations.CallThenReturnComesBack := by
  intro nnn s h
  refine ⟨_, _, exec_call_of_lt nnn h, exec_ret_of_pos (Nat.succ_pos s.sp.val), ?pc, rfl, fun j hj => ?below, ?frame⟩
  case pc => exact congrArg (· + 2) (Vector.getElem_set_self _)
  case below => exact Vector.getElem_set_ne h j.isLt (Nat.ne_of_gt hj)
  case frame => exact (((OnlyChanges.refl _ s).setStack rfl _ _).setPc _).advance

/-- Settles O37: both are one skip, SE on the equality and SNE on its negation. -/
theorem skipsCompareTwoRegisters : Obligations.SkipsCompareTwoRegisters := by
  refine ⟨encodes_seReg, encodes_sneReg, fun x y s => ⟨?se, ?sne⟩⟩
  case se => exact ⟨_, rfl, s.skipIf_decide_pc (s.V x = s.V y), onlyChanges_skipIf {} s _⟩
  case sne => exact ⟨_, rfl, (s.skipIf_decide_pc (s.V x ≠ s.V y)).trans (ite_not ..), onlyChanges_skipIf {} s _⟩

/-- Settles O38: 0xFFF + 0xFF fits 16 bits, so the sum is exact. -/
theorem jumpAddsRegisterZero : Obligations.JumpAddsRegisterZero := by
  refine ⟨encodes_jpV0, fun nnn s => ⟨_, rfl, ?sum, onlyChanges_setPc {} s _⟩⟩
  case sum =>
    have := nnn.isLt
    have := (s.V 0).isLt
    rw [State.setPc_pc, BitVec.toNat_add, addrOperand_toNat, wideV_toNat, v0]
    omega

/-- Settles O45: the byte is the opaque one at the count of draws, so nothing about it is used. -/
theorem randomByteIsMasked : Obligations.RandomByteIsMasked :=
  ⟨encodes_rnd, fun x _ s => ⟨_, rfl, s.noteDraw.setV_V_same x _, rfl, rfl,
    (((OnlyChanges.refl _ s).noteDraw rfl).setV (List.mem_singleton_self x) _).advance⟩⟩

/-- Settles O46: V[X] = k selects key k; SKP skips on it and SKNP on its negation; beyond 15 both fault. -/
theorem keySkipsTestTheSelectedKey : Obligations.KeySkipsTestTheSelectedKey := by
  refine ⟨encodes_skp, encodes_sknp, fun x k s h => ⟨?skp, ?sknp⟩, fun x s h => ⟨exec_skp_of_gt h, exec_sknp_of_gt h⟩⟩
  case skp => exact ⟨_, exec_skp_of_key h, by rw [State.skipIf_eq]; rfl, onlyChanges_skipIf {} s _⟩
  case sknp =>
    refine ⟨_, exec_sknp_of_key h, ?_, onlyChanges_skipIf {} s _⟩
    rw [State.skipIf_eq, State.setPc_pc, State.keyDown]
    cases s.key[k.val] <;> rfl

/-- Settles O53: the flag is of the exact sum of the values before, and VF is written after I. -/
theorem addToIndexSetsTheFlag : Obligations.AddToIndexSetsTheFlag := by
  refine ⟨encodes_addI, fun x s => ⟨_, rfl, ?sum, ?flag, rfl,
    (((OnlyChanges.refl _ s).setI rfl _).setV (List.mem_singleton_self vF) _).advance⟩⟩
  case sum => rw [State.advance_i, State.setV_i, State.setI_i, BitVec.toNat_add, wideV_toNat]
  case flag => rw [State.advance_V, State.setV_V_same, indexFlag, flagByte_decide]

end Sys2Proof.Machine
end

section
/-! What an instruction can do, said once: it raises its fault and changes nothing else, or it stays within its frame.
-/

namespace Sys2Proof.Machine

/-- The fault an instruction raises in a state, `none` when it raises none (60_exceptions.md R231 to R234). -/
def faultOf : Instr → State → FaultCause
  | .call _, s => if s.sp = 16 then .stackOverflow else .none
  | .ret, s => if s.sp = 0 then .stackUnderflow else .none
  | .skp x, s | .sknp x, s => if (s.V x).toNat > 0xF then .keyIndexRange else .none
  | _, _ => .none

/-- Every address of memory; sealed, so that no unification writes the list out. -/
@[irreducible] def everyAddress : List Nat := List.range 4096

theorem mod_mem_everyAddress (a : Nat) : a % 4096 ∈ everyAddress := by
  unfold everyAddress
  exact List.mem_range.2 (Nat.mod_lt _ (by decide))

/-- What an instruction that raises no fault may change besides pc. -/
def frameOf : Instr → Changes
  | .cls => { screen := true }
  | .ret | .call _ => { stack := true }
  | .rnd x _ => { regs := [x], draws := true }
  | .drw _ _ _ => { regs := [vF], screen := true }
  | .ldDtVx _ => { dt := true }
  | .ldStVx _ => { st := true }
  | .ldI _ | .ldF _ => { idx := true }
  | .addI _ => { regs := [vF], idx := true }
  | .ldB _ => { bytes := everyAddress }
  | .storeRegs _ => { idx := true, bytes := everyAddress }
  | .loadRegs x => { regs := (Instr.loadRegs x).writes, idx := true }
  | i => { regs := i.writes }

/-- The outcome of an instruction: the fault it raises and nothing else, or a change within its frame. -/
inductive Effect (i : Instr) (s : State) : State → Prop where
  | faults (hf : faultOf i s ≠ .none) : Effect i s (s.takeFault (faultOf i s))
  | completes {t : State} (hf : faultOf i s = .none) (hc : OnlyChanges (frameOf i) s t) : Effect i s t

/-! ## The instructions with more than one outcome -/

theorem ret_effect (s : State) : ∃ t, exec .ret s = .next t ∧ Effect .ret s t := by
  by_cases h : s.sp = 0
  · have hf : faultOf .ret s = .stackUnderflow := if_pos h
    exact ⟨_, exec_ret_of_empty h, hf ▸ .faults (by simp [hf])⟩
  · exact ⟨_, exec_ret_of_pos (sp_pos_of_ne_zero h),
      .completes (if_neg h) (((OnlyChanges.refl _ s).setStack rfl s.stack _).setPc _).advance⟩

theorem call_effect (nnn : BitVec 12) (s : State) : ∃ t, exec (.call nnn) s = .next t ∧ Effect (.call nnn) s t := by
  by_cases h : s.sp = 16
  · have hf : faultOf (.call nnn) s = .stackOverflow := if_pos h
    exact ⟨_, exec_call_of_full nnn h, hf ▸ .faults (by simp [hf])⟩
  · exact ⟨_, exec_call_of_lt nnn (sp_lt_of_ne_full h),
      .completes (if_neg h) (((OnlyChanges.refl _ s).setStack rfl _ _).setPc _)⟩

theorem skp_effect (x : Reg) (s : State) : ∃ t, exec (.skp x) s = .next t ∧ Effect (.skp x) s t := by
  by_cases h : (s.V x).toNat > 0xF
  · have hf : faultOf (.skp x) s = .keyIndexRange := if_pos h
    exact ⟨_, exec_skp_of_gt h, hf ▸ .faults (by simp [hf])⟩
  · exact ⟨_, exec_skp_of_key (k := ⟨(s.V x).toNat, by omega⟩) rfl, .completes (if_neg h) (onlyChanges_skipIf _ s _)⟩

theorem sknp_effect (x : Reg) (s : State) : ∃ t, exec (.sknp x) s = .next t ∧ Effect (.sknp x) s t := by
  by_cases h : (s.V x).toNat > 0xF
  · have hf : faultOf (.sknp x) s = .keyIndexRange := if_pos h
    exact ⟨_, exec_sknp_of_gt h, hf ▸ .faults (by simp [hf])⟩
  · exact ⟨_, exec_sknp_of_key (k := ⟨(s.V x).toNat, by omega⟩) rfl, .completes (if_neg h) (onlyChanges_skipIf _ s _)⟩

theorem ldVxK_effect (x : Reg) (s : State) : ∃ t, exec (.ldVxK x) s = .next t ∧ Effect (.ldVxK x) s t := by
  cases h : s.lowestKey with
  | some k => exact ⟨_, exec_ldVxK_of_some x h, .completes rfl (onlyChanges_setV_advance s x _)⟩
  | none => exact ⟨_, exec_ldVxK_of_none x h, .completes rfl (OnlyChanges.refl _ s)⟩

/-- Every instruction has an outcome in every state, and it is one of the two. -/
theorem exec_effect (i : Instr) (s : State) : ∃ t, exec i s = .next t ∧ Effect i s t := by
  cases i with
  | ret => exact ret_effect s
  | call nnn => exact call_effect nnn s
  | skp x => exact skp_effect x s
  | sknp x => exact sknp_effect x s
  | ldVxK x => exact ldVxK_effect x s
  | jp | jpV0 => exact ⟨_, rfl, .completes rfl (onlyChanges_setPc _ s _)⟩
  | seByte | sneByte | seReg | sneReg => exact ⟨_, rfl, .completes rfl (onlyChanges_skipIf _ s _)⟩
  | ldByte x | addByte x | ldReg x | orReg x | andReg x | xorReg x | ldVxDt x =>
    exact ⟨_, rfl, .completes rfl (onlyChanges_setV_advance s x _)⟩
  | addReg x | subReg x | shr x | subnReg x | shl x =>
    exact ⟨_, rfl, .completes rfl (onlyChanges_setResultAndFlag s x _ _)⟩
  | rnd x =>
    exact ⟨_, rfl, .completes rfl (((OnlyChanges.refl _ s).noteDraw rfl).setV (List.mem_singleton_self x) _).advance⟩
  | cls => exact ⟨_, rfl, .completes rfl (onlyChanges_setFb_advance s _)⟩
  | drw =>
    exact ⟨_, rfl, .completes rfl (((OnlyChanges.refl _ s).setFb rfl _).setV (List.mem_singleton_self vF) _).advance⟩
  | ldDtVx => exact ⟨_, rfl, .completes rfl (onlyChanges_setDt_advance s _)⟩
  | ldStVx => exact ⟨_, rfl, .completes rfl (onlyChanges_setSt_advance s _)⟩
  | ldI | ldF => exact ⟨_, rfl, .completes rfl ((OnlyChanges.refl _ s).setI rfl _).advance⟩
  | addI =>
    exact ⟨_, rfl,
      .completes rfl (((OnlyChanges.refl _ s).setI rfl _).setV (List.mem_singleton_self vF) _).advance⟩
  | ldB x =>
    exact ⟨_, exec_ldB x s, .completes rfl ((OnlyChanges.refl _ s).writeBytes_of_all mod_mem_everyAddress _ _).advance⟩
  | storeRegs x =>
    exact ⟨_, exec_storeRegs x s,
      .completes rfl (((OnlyChanges.refl _ s).writeBytes_of_all mod_mem_everyAddress _ _).setI rfl _).advance⟩
  | loadRegs x =>
    have hregs : ∀ r ∈ regsUpTo x, r ∈ (Instr.loadRegs x).writes := by simp [mem_regsUpTo, Instr.writes]
    exact ⟨_, exec_loadRegs x s, .completes rfl (((OnlyChanges.refl _ s).assignRegs _ hregs).setI rfl _).advance⟩

/-! ## The parts of a frame by name -/

namespace OnlyChanges

variable {c : Changes} {s t : State}

theorem register (h : OnlyChanges c s t) {r : Reg} (hr : r ∉ c.regs) : t.V r = s.V r := by
  obtain ⟨hregs, -⟩ := h
  exact hregs r hr

theorem index (h : OnlyChanges c s t) (hc : c.idx = false) : t.i = s.i := by
  obtain ⟨-, hidx, -⟩ := h
  exact hidx hc

theorem callStack (h : OnlyChanges c s t) (hc : c.stack = false) : t.stack = s.stack ∧ t.sp = s.sp := by
  obtain ⟨-, -, hstack, -⟩ := h
  exact hstack hc

theorem keypad (h : OnlyChanges c s t) : t.key = s.key := by
  obtain ⟨-, -, -, -, -, hkey, -⟩ := h
  exact hkey

theorem byte (h : OnlyChanges c s t) {a : Nat} (ha : a % 4096 ∉ c.bytes) : t.memRead a = s.memRead a := by
  obtain ⟨-, -, -, -, -, -, -, hmem, -⟩ := h
  exact hmem a ha

theorem faultStatus (h : OnlyChanges c s t) :
    t.faultCause = s.faultCause ∧ t.faultPc = s.faultPc ∧ t.faultWord = s.faultWord := by
  obtain ⟨-, -, -, -, -, -, -, -, hfault, -⟩ := h
  exact hfault

theorem halted (h : OnlyChanges c s t) : t.halted = s.halted := by rw [State.halted, State.halted, h.faultStatus.1]

theorem drawCount (h : OnlyChanges c s t) (hc : c.draws = false) : t.draws = s.draws := by
  obtain ⟨-, -, -, -, -, -, -, -, -, hdraws, -⟩ := h
  exact hdraws hc

theorem startedFlag (h : OnlyChanges c s t) : t.started = s.started := by
  obtain ⟨-, -, -, -, -, -, -, -, -, -, hstarted⟩ := h
  exact hstarted

end OnlyChanges

/-! ## Whose frame holds what -/

theorem frameOf_regs (i : Instr) : (frameOf i).regs = i.writes := by cases i <;> rfl

theorem frameOf_idx {i : Instr} (h : (frameOf i).idx ≠ false) :
    (∃ nnn, i = .ldI nnn) ∨ ∃ x, i = .addI x ∨ i = .ldF x ∨ i = .storeRegs x ∨ i = .loadRegs x := by
  cases i with
  | ldI nnn => exact .inl ⟨nnn, rfl⟩
  | addI x => exact .inr ⟨x, .inl rfl⟩
  | ldF x => exact .inr ⟨x, .inr (.inl rfl)⟩
  | storeRegs x => exact .inr ⟨x, .inr (.inr (.inl rfl))⟩
  | loadRegs x => exact .inr ⟨x, .inr (.inr (.inr rfl))⟩
  | _ => exact absurd rfl h

theorem frameOf_stack {i : Instr} (h : (frameOf i).stack ≠ false) : i = .ret ∨ ∃ nnn, i = .call nnn := by
  cases i with
  | ret => exact .inl rfl
  | call nnn => exact .inr ⟨nnn, rfl⟩
  | _ => exact absurd rfl h

theorem frameOf_bytes {i : Instr} (h : (frameOf i).bytes ≠ []) : ∃ x, i = .ldB x ∨ i = .storeRegs x := by
  cases i with
  | ldB x => exact ⟨x, .inl rfl⟩
  | storeRegs x => exact ⟨x, .inr rfl⟩
  | _ => exact absurd rfl h

theorem frameOf_draws {i : Instr} (h : ∀ x kk, i ≠ .rnd x kk) : (frameOf i).draws = false := by
  cases i with
  | rnd x kk => exact absurd rfl (h x kk)
  | _ => rfl

/-! ## Which fault is raised by whom -/

theorem faultOf_eq_stackOverflow_iff {i : Instr} {s : State} :
    faultOf i s = .stackOverflow ↔ s.sp = 16 ∧ ∃ nnn, i = .call nnn := by
  cases i with
  | ret | skp | sknp => simp [faultOf, ite_eq_iff]
  | _ => simp [faultOf]

theorem faultOf_eq_stackUnderflow_iff {i : Instr} {s : State} :
    faultOf i s = .stackUnderflow ↔ s.sp = 0 ∧ i = .ret := by
  cases i with
  | call | skp | sknp => simp [faultOf, ite_eq_iff]
  | _ => simp [faultOf]

theorem faultOf_eq_keyIndexRange_iff {i : Instr} {s : State} :
    faultOf i s = .keyIndexRange ↔ ∃ x, (s.V x).toNat > 0xF ∧ (i = .skp x ∨ i = .sknp x) := by
  cases i with
  | call | ret => simp [faultOf, ite_eq_iff]
  | _ => simp [faultOf]

/-! ## pc after an instruction that is no branch -/

theorem stalledBy_iff {i : Instr} {s : State} :
    stalledBy (.instr i) s = true ↔ (∃ x, i = .ldVxK x) ∧ ∀ k, s.keyDown k = false := by
  rw [stalledBy, Bool.and_eq_true, Option.isNone_iff_eq_none, State.lowestKey_eq_none]
  cases i <;> simp [waitsForKey]

theorem State.skipIf_pc (s : State) (c : Bool) : (s.skipIf c).pc = s.pc + 2 ∨ (s.skipIf c).pc = s.pc + 4 := by
  rw [skipIf_eq, setPc_pc]
  cases c
  · exact .inl rfl
  · exact .inr rfl

/-- SKP and SKNP that raise no fault skip. -/
theorem keySkip_of_faultOf_none {i : Instr} {x : Reg} {s t : State} (hi : i = .skp x ∨ i = .sknp x)
    (hf : faultOf i s = .none) (h : exec i s = .next t) : ∃ c, t = s.skipIf c := by
  have hlt : (s.V x).toNat < 16 := by
    by_contra hge
    have hr : faultOf i s = .keyIndexRange := faultOf_eq_keyIndexRange_iff.2 ⟨x, by omega, hi⟩
    cases hf.symm.trans hr
  obtain rfl | rfl := hi
  · cases (exec_skp_of_key (k := ⟨_, hlt⟩) rfl).symm.trans h
    exact ⟨_, rfl⟩
  · cases (exec_sknp_of_key (k := ⟨_, hlt⟩) rfl).symm.trans h
    exact ⟨_, rfl⟩

/-- An instruction that neither branches nor faults moves pc by 2, or by 4 if it skips, or waits for a key
(30_encoding.md R82, R83; 44_keys_timers.md R183). -/
theorem exec_pc {i : Instr} {s t : State} (h : exec i s = .next t) (hf : faultOf i s = .none)
    (hb : i.isBranch = false) :
    (stalledBy (.instr i) s = false ∧ t.pc = s.pc + 2) ∨ (i.isSkip = true ∧ t.pc = s.pc + 4) ∨
      (stalledBy (.instr i) s = true ∧ t.pc = s.pc) := by
  cases i with
  | jp | jpV0 | call | ret => cases hb
  | seByte | sneByte | seReg | sneReg =>
    cases h
    exact (s.skipIf_pc _).imp (fun e => ⟨rfl, e⟩) fun e => .inl ⟨rfl, e⟩
  | skp x =>
    obtain ⟨c, rfl⟩ := keySkip_of_faultOf_none (.inl rfl) hf h
    exact (s.skipIf_pc c).imp (fun e => ⟨rfl, e⟩) fun e => .inl ⟨rfl, e⟩
  | sknp x =>
    obtain ⟨c, rfl⟩ := keySkip_of_faultOf_none (.inr rfl) hf h
    exact (s.skipIf_pc c).imp (fun e => ⟨rfl, e⟩) fun e => .inl ⟨rfl, e⟩
  | ldVxK x =>
    cases hk : s.lowestKey with
    | some k =>
      cases (exec_ldVxK_of_some x hk).symm.trans h
      exact .inl ⟨by simp [stalledBy, hk], rfl⟩
    | none =>
      cases (exec_ldVxK_of_none x hk).symm.trans h
      exact .inr (.inr ⟨by simp [stalledBy, hk, waitsForKey], rfl⟩)
  | loadRegs x =>
    cases (exec_loadRegs x s).symm.trans h
    exact .inl ⟨rfl, congrArg (· + 2) (s.assignRegs_pc _ _)⟩
  | _ =>
    cases h
    exact .inl ⟨rfl, rfl⟩

end Sys2Proof.Machine
end

section
/-! What a cycle can do, said once (30_encoding.md R81, R84; 60_exceptions.md R235 to R237), and the rules of one
cycle. -/

namespace Sys2Proof.Machine

/-- The four kinds of cycle from `s`, each with the state and the outputs it answers. -/
inductive CycleEffect (s : State) : State → Outputs → Prop where
  /-- A halted core does nothing (R236). -/
  | halted (hs : s.halted = true) : CycleEffect s s .quiet
  /-- The instruction raises its fault: the fault status alone is written (R235). -/
  | faults {i : Instr} (hs : s.halted = false) (hd : decodeWord s.fetchWord = .instr i) (hf : faultOf i s ≠ .none) :
      CycleEffect s (s.beginCycle.takeFault (faultOf i s)) .quiet
  /-- The instruction completes within its frame, and the timers tick (R243). -/
  | completes {i : Instr} {u : State} (hs : s.halted = false) (hd : decodeWord s.fetchWord = .instr i)
      (hf : faultOf i s = .none) (hu : exec i s.beginCycle = .next u)
      (hc : OnlyChanges (frameOf i) s.beginCycle u) :
      CycleEffect s u.timerTick ⟨u.tickBeeps, none, stalledBy (.instr i) s⟩
  /-- An Unknown word is reported and skipped, and the timers tick (R84). -/
  | unknown {why : UnknownWord} (hs : s.halted = false) (hd : decodeWord s.fetchWord = .unknown why) :
      CycleEffect s s.beginCycle.advance.timerTick ⟨s.tickBeeps, some (s.fetchWord, s.pc), false⟩

theorem faultOf_beginCycle (i : Instr) (s : State) : faultOf i s.beginCycle = faultOf i s := by cases i <;> rfl

/-- Every cycle has an effect. -/
theorem cycle_effect (s : State) : ∃ t o, cycle s = .next (t, o) ∧ CycleEffect s t o := by
  cases hs : s.halted with
  | true => exact ⟨s, .quiet, cycle_of_halted hs, .halted hs⟩
  | false =>
    cases hd : decodeWord s.fetchWord with
    | unknown why => exact ⟨_, _, cycle_of_unknown hs hd, .unknown hs hd⟩
    | instr i =>
      obtain ⟨u, hu, he⟩ := exec_effect i s.beginCycle
      have hcyc := cycle_of_instr hs hd hu
      cases he with
      | faults hf =>
        rw [faultOf_beginCycle] at hf hcyc
        have hh : (s.beginCycle.takeFault (faultOf i s)).halted = true := State.halted_iff.2 hf
        rw [endCycle_of_halted hh, outputsOf, if_pos hh] at hcyc
        exact ⟨_, _, hcyc, .faults hs hd hf⟩
      | completes hf hc =>
        rw [faultOf_beginCycle] at hf
        exact ⟨_, _, cycle_of_completed_instr hs hd hu (hc.halted.trans hs), .completes hs hd hf hu hc⟩

theorem effect_of_cycle {s t : State} {o : Outputs} (h : cycle s = .next (t, o)) : CycleEffect s t o := by
  obtain ⟨u, q, hu, he⟩ := cycle_effect s
  cases hu.symm.trans h
  exact he

theorem effect_of_step {s t : State} (h : step s = .next t) : ∃ o, CycleEffect s t o := by
  obtain ⟨o, h⟩ := step_eq_next.1 h
  exact ⟨o, effect_of_cycle h⟩

/-! ## Fetch, decode, execute -/

/-- Settles O8: after the instruction the cycle is the tick, or nothing when a fault was raised. -/
theorem stepRunsDecodedInstruction : Obligations.StepRunsDecodedInstruction := by
  intro s t i hs hd ht
  have hstep : step s = .next t.endCycle := step_of_cycle (cycle_of_instr (State.not_halted_iff.2 hs) hd ht)
  refine ⟨fun hr => ?completed, fun hh => ?faulted⟩
  case completed => rw [hstep, endCycle_of_running (State.not_halted_iff.2 hr)]
  case faulted => rw [hstep, endCycle_of_halted (State.halted_iff.2 hh)]

/-- A tick changes the timers and nothing else. -/
theorem OnlyChanges.timerTick {c : Changes} {s t : State} (h : OnlyChanges c s t) (hdt : c.dt = true)
    (hst : c.st = true) : OnlyChanges c s t.timerTick :=
  (h.setDt hdt (tickDown t.dt)).setSt hst (tickDown t.st)

/-- Settles O9: the cycle is pc + 2 and the tick, with the report beside it. -/
theorem unknownWordReportedAndSkipped : Obligations.UnknownWordReportedAndSkipped := by
  intro s why hs hd
  have hcyc := cycle_of_unknown (State.not_halted_iff.2 hs) hd
  exact ⟨_, _, hcyc, step_of_cycle hcyc, rfl, rfl, rfl, State.tickBeeps_iff, tickDown_toNat s.dt, tickDown_toNat s.st,
    (OnlyChanges.refl _ s.beginCycle).advance.timerTick rfl rfl⟩

/-! ## The outputs -/

/-- Settles O13: only a completed LD Vx, K with no key down sets it; no other effect does. -/
theorem stalledExactlyWhenWaiting : Obligations.StalledExactlyWhenWaiting := by
  intro s t o h
  cases effect_of_cycle h with
  | halted hs => simp [Outputs.quiet, State.halted_iff.1 hs]
  | faults hs hd hf =>
    have hne : ∀ x, decodeWord s.fetchWord ≠ .instr (.ldVxK x) := by
      intro x e
      cases hd.symm.trans e
      exact hf rfl
    simp [Outputs.quiet, hne]
  | completes hs hd hf hu hc => simp [stalledBy_iff, hd, State.not_halted_iff.1 hs]
  | unknown hs hd => simp [hd]

/-- Settles O14: the report is the Unknown word's alone, and holds the word and the pc it was fetched from. -/
theorem unknownOutputExactlyOnUnknownWords : Obligations.UnknownOutputExactlyOnUnknownWords := by
  intro s t o w p h
  cases effect_of_cycle h with
  | halted hs => simp [Outputs.quiet, State.halted_iff.1 hs]
  | faults hs hd hf => simp [Outputs.quiet, hd]
  | completes hs hd hf hu hc => simp [hd]
  | unknown hs hd => simp [hd, State.not_halted_iff.1 hs, eq_comm]

/-- A timer that is 1 ticks to 0. -/
theorem tickDown_one : tickDown 1 = 0 := rfl

/-- Settles O60: the beep is that of a tick from ST = 1, a report comes from an Unknown word alone, and a cycle that
leaves a fault is a halted or a faulting one. -/
theorem cycleOutputsFitTheStateTheyComeWith : Obligations.CycleOutputsFitTheStateTheyComeWith := by
  intro s t o h
  cases effect_of_cycle h with
  | halted hs => exact ⟨nofun, nofun, fun _ => rfl⟩
  | faults hs hd hf => exact ⟨nofun, nofun, fun _ => rfl⟩
  | completes hs hd hf hu hc =>
    refine ⟨fun hb => ?beep, nofun, fun ht => ?quiet⟩
    case beep => rw [State.timerTick_st, State.tickBeeps_iff.1 hb, tickDown_one]
    case quiet => exact absurd (hc.faultStatus.1.trans (State.not_halted_iff.1 hs)) ht
  | unknown hs hd =>
    refine ⟨fun hb => ?beep, fun w p e => ?report, fun ht => absurd (State.not_halted_iff.1 hs) ht⟩
    case beep => exact (congrArg tickDown (State.tickBeeps_iff.1 hb)).trans tickDown_one
    case report =>
      cases e
      exact ⟨⟨_, hd⟩, rfl, rfl⟩

/-- Settles O23: a step is a cycle without its outputs, and of the host's interactions only the cycle replies with
outputs. -/
theorem outputsAreGivenOnlyByTheirCycle : Obligations.OutputsAreGivenOnlyByTheirCycle := by
  refine ⟨fun s t => step_eq_next, fun r s t o => ?_⟩
  cases r with
  | cycle => simp [interact_cycle_eq_next]
  | load image =>
    have hreply : (s.hostLoad image).2 ≠ .outputs o := by
      unfold State.hostLoad
      split
      · nofun
      · split <;> nofun
    refine ⟨fun h => absurd ?_ hreply, nofun⟩
    exact congrArg Prod.snd (Host.Outcome.next.inj h)
  | _ => exact ⟨nofun, nofun⟩

/-! ## Faults -/

/-- Settles O10: a halted core's cycle answers the core itself, so by induction any number does. -/
theorem haltedCoreStaysAsItIs : Obligations.HaltedCoreStaysAsItIs := by
  intro k s hs
  have hcyc := cycle_of_halted (State.halted_iff.2 hs)
  refine ⟨?_, hcyc⟩
  induction k with
  | zero => rfl
  | succ k ih => rw [runCycles_succ k (step_of_cycle hcyc), ih]

/-- What is recorded after the step of a running core: the fault of its instruction, and none after an Unknown word. -/
theorem faultCause_of_step {s t : State} (hs : s.faultCause = .none) (h : step s = .next t) :
    (∃ i, decodeWord s.fetchWord = .instr i ∧ t.faultCause = faultOf i s) ∨
      (∃ why, decodeWord s.fetchWord = .unknown why) ∧ t.faultCause = .none := by
  obtain ⟨o, he⟩ := effect_of_step h
  cases he with
  | halted hh => exact absurd hs (State.halted_iff.1 hh)
  | faults _ hd hf => exact .inl ⟨_, hd, rfl⟩
  | completes _ hd hf hu hc => exact .inl ⟨_, hd, (hc.faultStatus.1.trans hs).trans hf.symm⟩
  | unknown _ hd => exact .inr ⟨⟨_, hd⟩, hs⟩

/-- Settles O15: the cause recorded is `faultOf`, whose values are one condition each. -/
theorem faultsRaisedExactlyOnTheirConditions : Obligations.FaultsRaisedExactlyOnTheirConditions := by
  refine ⟨rfl, rfl, rfl, fun s t hs h => ?_⟩
  obtain ⟨i, hd, ht⟩ | ⟨⟨why, hd⟩, ht⟩ := faultCause_of_step hs h
  · simp only [ht, hd, Decoded.instr.injEq]
    exact ⟨faultOf_eq_stackOverflow_iff, faultOf_eq_stackUnderflow_iff, faultOf_eq_keyIndexRange_iff⟩
  · simp [ht, hd]

/-- Settles O16: of the effects only the faulting one of a running core leaves a fault recorded. -/
theorem faultingCycleWritesOnlyTheFaultStatus : Obligations.FaultingCycleWritesOnlyTheFaultStatus := by
  intro s t o hs h ht
  cases effect_of_cycle h with
  | halted hh => exact absurd hs ht
  | faults _ hd hf => exact ⟨rfl, rfl⟩
  | completes _ hd hf hu hc => exact absurd (hc.faultStatus.1.trans hs) ht
  | unknown _ hd => exact absurd hs ht

/-! ## pc, the registers and the storages -/

/-- Settles O25: the cycle's tick leaves the pc that the instruction left. -/
theorem pcMovesByTwoUnlessBranch : Obligations.PcMovesByTwoUnlessBranch := by
  intro s t o i hs hd h ht hb
  cases effect_of_cycle h with
  | halted hh => exact absurd hs (State.halted_iff.1 hh)
  | faults _ hd' hf => exact absurd ht hf
  | completes _ hd' hf hu hc =>
    cases hd'.symm.trans hd
    have hpc := exec_pc hu ((faultOf_beginCycle i s).trans hf) hb
    exact hpc
  | unknown _ hd' => cases hd'.symm.trans hd

/-- Settles O26: a completed instruction changes no register outside its frame, the other effects change none. -/
theorem registersWrittenOnlyAsListed : Obligations.RegistersWrittenOnlyAsListed := by
  intro s t r h hne
  obtain ⟨o, he⟩ := effect_of_step h
  cases he with
  | halted | faults | unknown => exact absurd rfl hne
  | @completes i u _ hd hf hu hc =>
    refine ⟨i, hd, by_contra fun hr => hne ?_⟩
    exact hc.register (frameOf_regs i ▸ hr)

/-- Settles O27: a completed instruction that changes I has it in its frame, the other effects leave it. -/
theorem indexWrittenOnlyByFiveInstructions : Obligations.IndexWrittenOnlyByFiveInstructions := by
  intro s t h hne
  obtain ⟨o, he⟩ := effect_of_step h
  cases he with
  | halted | faults | unknown => exact absurd rfl hne
  | completes _ hd hf hu hc =>
    simp only [hd, Decoded.instr.injEq]
    exact frameOf_idx fun hidx => hne (hc.index hidx)

/-- RET moves sp and keeps the slots (10_state.md R26). -/
theorem exec_ret_stack {s t : State} (h : exec .ret s = .next t) : t.stack = s.stack := by
  by_cases hsp : s.sp = 0
  · cases (exec_ret_of_empty hsp).symm.trans h
    rfl
  · cases (exec_ret_of_pos (sp_pos_of_ne_zero hsp)).symm.trans h
    rfl

theorem exec_stack {i : Instr} {s t : State} (h : exec i s = .next t) (hc : OnlyChanges (frameOf i) s t)
    (hne : t.stack ≠ s.stack) : ∃ nnn, i = .call nnn := by
  obtain rfl | hcall := frameOf_stack fun hf => hne (hc.callStack hf).1
  · exact absurd (exec_ret_stack h) hne
  · exact hcall

/-- What a cycle may do to memory, the keypad, the stack and its pointer (20_memory.md section 4, 10_state.md R26 to
R29). -/
theorem cycle_storages {s t : State} {o : Outputs} (h : cycle s = .next (t, o)) :
    ((∃ a, t.memRead a ≠ s.memRead a) →
      ∃ x, decodeWord s.fetchWord = .instr (.ldB x) ∨ decodeWord s.fetchWord = .instr (.storeRegs x)) ∧
    t.key = s.key ∧
    (t.stack ≠ s.stack → ∃ nnn, decodeWord s.fetchWord = .instr (.call nnn)) ∧
    (t.sp ≠ s.sp → decodeWord s.fetchWord = .instr .ret ∨ ∃ nnn, decodeWord s.fetchWord = .instr (.call nnn)) := by
  cases effect_of_cycle h with
  | halted | faults | unknown => exact ⟨fun ⟨_, hne⟩ => absurd rfl hne, rfl, absurd rfl, absurd rfl⟩
  | completes hs hd hf hu hc =>
    simp only [hd, Decoded.instr.injEq]
    refine ⟨fun ⟨a, hne⟩ => frameOf_bytes fun hb => hne (hc.byte ?_), hc.keypad,
      fun hne => exec_stack hu hc hne, fun hne => frameOf_stack fun hf => hne (hc.callStack hf).2⟩
    rw [hb]
    exact List.not_mem_nil

/-- A load leaves everything but memory. -/
theorem hostLoad_storages (s : State) (image : List Byte) :
    (s.hostLoad image).1.key = s.key ∧ (s.hostLoad image).1.stack = s.stack ∧ (s.hostLoad image).1.sp = s.sp := by
  unfold State.hostLoad
  split
  · exact ⟨rfl, rfl, rfl⟩
  · split <;> exact ⟨rfl, rfl, rfl⟩

/-- Settles O21: reset may write all four, the loader memory, the host the keypad, a cycle what its instruction's frame
allows. -/
theorem storagesWrittenOnlyByTheirWriters : Obligations.StoragesWrittenOnlyByTheirWriters := by
  intro r s t reply h
  cases r with
  | reset => exact ⟨fun _ => .inl rfl, fun _ => .inl rfl, fun _ => .inl rfl, fun _ => .inl rfl⟩
  | load image =>
    obtain ⟨hkey, hstack, hsp⟩ := hostLoad_storages s image
    have ht : (s.hostLoad image).1 = t := congrArg Prod.fst (Host.Outcome.next.inj h)
    rw [ht] at hkey hstack hsp
    exact ⟨fun _ => .inr (.inl ⟨image, rfl⟩), absurd hkey, absurd hstack, absurd hsp⟩
  | setKeypad keys =>
    cases h
    exact ⟨fun ⟨_, hne⟩ => absurd rfl hne, fun _ => .inr ⟨keys, rfl⟩, absurd rfl, absurd rfl⟩
  | cycle =>
    obtain ⟨o, hcyc, -⟩ := interact_cycle_eq_next.1 h
    obtain ⟨hmem, hkey, hstack, hsp⟩ := cycle_storages hcyc
    exact ⟨fun hne => .inr (.inr ⟨rfl, hmem hne⟩), absurd hkey, fun hne => .inr ⟨rfl, hstack hne⟩,
      fun hne => .inr ⟨rfl, hsp hne⟩⟩
  | readFramebuffer | clearDirty | readFault =>
    cases h
    exact ⟨fun ⟨_, hne⟩ => absurd rfl hne, absurd rfl, absurd rfl, absurd rfl⟩

end Sys2Proof.Machine
end

section
/-! The invariant: memory stays in its canonical form, and every effect of a cycle and every act of the host keeps
`Inv`. -/

namespace Sys2Proof.Machine

theorem State.withControl_mem (s t : State) : (s.withControl t).mem = s.mem := rfl

theorem State.assignRegs_mem (s : State) (f : Reg → Byte) (rs : List Reg) : (s.assignRegs f rs).mem = s.mem := by
  rw [assignRegs, (foldl_setV f rs s).2]

/-- An instruction leaves the memory it found, or consecutive bytes written to it. -/
theorem exec_mem {i : Instr} {s t : State} (h : exec i s = .next t) :
    t.mem = s.mem ∨ ∃ a bs, t.mem = s.mem.writeList a bs := by
  cases i with
  | jp | jpV0 | ret | call =>
    exact .inl ((congrArg State.mem (exec_eq_withControl (.inl rfl) h)).trans (s.withControl_mem t))
  | seByte | sneByte | seReg | sneReg | skp | sknp =>
    exact .inl ((congrArg State.mem (exec_eq_withControl (.inr rfl) h)).trans (s.withControl_mem t))
  | ldVxK x =>
    cases hk : s.lowestKey with
    | some k =>
      cases (exec_ldVxK_of_some x hk).symm.trans h
      exact .inl rfl
    | none =>
      cases (exec_ldVxK_of_none x hk).symm.trans h
      exact .inl rfl
  | loadRegs x =>
    cases (exec_loadRegs x s).symm.trans h
    exact .inl (s.assignRegs_mem _ _)
  | ldB | storeRegs =>
    cases h
    exact .inr ⟨_, _, rfl⟩
  | _ =>
    cases h
    exact .inl rfl

theorem exec_wf {i : Instr} {s t : State} (h : exec i s = .next t) (hs : s.mem.wf = true) : t.mem.wf = true := by
  obtain ht | ⟨a, bs, ht⟩ := exec_mem h
  · rwa [ht]
  · rw [ht]
    exact Memory.writeList_wf bs a hs

/-- The host's reset is the reset state but for the count of draws, which the invariant does not speak of. -/
theorem inv_hostReset (s : State) : Inv s.hostReset where
  memory := rfl
  noFault _ := ⟨rfl, rfl⟩
  faulted h := absurd rfl h
  justified := trivial
  fresh _ := rfl
  loaderStaysHigh _ _ _ := rfl

/-- Settles O17: the reset state is what the host's reset makes of it. -/
theorem resetMeetsTheInvariant : Obligations.ResetMeetsTheInvariant := inv_hostReset State.reset

theorem faultJustified_of_none {s : State} (h : s.faultCause = .none) : FaultJustified s := by
  rw [FaultJustified, h]
  trivial

/-- After a cycle of a running core that recorded no fault, the invariant is that memory is canonical and the fault
status still clear. -/
theorem inv_of_running {s : State} (hmem : s.mem.wf = true) (hs : s.faultCause = .none)
    (hclear : s.faultPc = 0 ∧ s.faultWord = 0) (hstarted : s.started = true) : Inv s where
  memory := hmem
  noFault _ := hclear
  faulted h := absurd hs h
  justified := faultJustified_of_none hs
  fresh h := absurd hstarted (by simp [h])
  loaderStaysHigh h := absurd hstarted (by simp [h])

/-- The fault that an instruction raises is justified in the state it leaves, which differs in the fault status alone.
-/
theorem faultJustified_takeFault {i : Instr} {s : State} (hd : decodeWord s.fetchWord = .instr i)
    (hf : faultOf i s ≠ .none) : FaultJustified (s.takeFault (faultOf i s)) := by
  unfold FaultJustified
  cases hc : faultOf i s with
  | none => trivial
  | stackOverflow =>
    obtain ⟨hsp, nnn, rfl⟩ := faultOf_eq_stackOverflow_iff.1 hc
    exact ⟨hsp, nnn, hd⟩
  | stackUnderflow =>
    obtain ⟨hsp, rfl⟩ := faultOf_eq_stackUnderflow_iff.1 hc
    exact ⟨hsp, hd⟩
  | keyIndexRange =>
    obtain ⟨x, hx, hi⟩ := faultOf_eq_keyIndexRange_iff.1 hc
    exact ⟨x, hx, hi.imp (fun e => hd.trans (congrArg _ e)) fun e => hd.trans (congrArg _ e)⟩

theorem inv_of_faulting {i : Instr} {s : State} (hmem : s.mem.wf = true) (hd : decodeWord s.fetchWord = .instr i)
    (hf : faultOf i s ≠ .none) : Inv (s.beginCycle.takeFault (faultOf i s)) where
  memory := hmem
  noFault h := absurd h hf
  faulted _ := ⟨rfl, rfl, rfl⟩
  justified := by
    have h := faultJustified_takeFault (s := s.beginCycle) hd (by rwa [faultOf_beginCycle])
    rwa [faultOf_beginCycle] at h
  fresh := nofun
  loaderStaysHigh := nofun

/-- Settles O18: a halted core stays, a fault is recorded with its justification, and a completed cycle leaves the fault
status alone and memory canonical. -/
theorem stepKeepsTheInvariant : Obligations.StepKeepsTheInvariant := by
  intro s t hs h
  obtain ⟨o, he⟩ := effect_of_step h
  cases he with
  | halted => exact hs
  | faults _ hd hf => exact inv_of_faulting hs.memory hd hf
  | completes hr hd hf hu hc =>
    obtain ⟨hcause, hpc, hword⟩ := hc.faultStatus
    have hnone := State.not_halted_iff.1 hr
    obtain ⟨hpc0, hword0⟩ := hs.noFault hnone
    have hmem := exec_wf hu hs.memory
    exact inv_of_running hmem (hcause.trans hnone) ⟨hpc.trans hpc0, hword.trans hword0⟩ hc.startedFlag
  | unknown hr hd =>
    have hnone := State.not_halted_iff.1 hr
    exact inv_of_running hs.memory hnone (hs.noFault hnone) rfl

/-! ## The host -/

theorem inv_setKeypad {s : State} (hs : Inv s) (keys : Vector Bool 16) : Inv (s.setKeypad keys) where
  memory := hs.memory
  noFault := hs.noFault
  faulted := hs.faulted
  justified := hs.justified
  fresh := hs.fresh
  loaderStaysHigh := hs.loaderStaysHigh

theorem inv_clearDirty {s : State} (hs : Inv s) : Inv s.clearDirty where
  memory := hs.memory
  noFault := hs.noFault
  faulted := hs.faulted
  justified := hs.justified
  fresh h := congrArg State.clearDirty (hs.fresh h)
  loaderStaysHigh := hs.loaderStaysHigh

/-- An image of at most 0xE00 bytes lies from 0x200 up to the end of memory and does not wrap (R273). -/
theorem imageAddress_mod {j n : Nat} (hj : j < n) (hn : n ≤ 0xE00) : (0x200 + j) % 4096 = 0x200 + j :=
  Nat.mod_eq_of_lt (by omega)

/-- The loader's bytes lie at 0x200 and above. -/
theorem putImage_memRead_low {s : State} (hs : s.mem.wf = true) {image : List Byte} (hn : image.length ≤ 0xE00)
    {a : Nat} (ha : a < 0x200) : (s.putImage image).memRead a = s.memRead a := by
  refine State.writeBytes_memRead_other hs 0x200 fun j hj => ?_
  rw [imageAddress_mod hj hn]
  omega

/-- Before the first cycle there is no fault, so a load touches nothing the invariant ties to pc. -/
theorem inv_putImage {s : State} (hs : Inv s) {image : List Byte} (hn : image.length ≤ 0xE00)
    (hfresh : s.started = false) : Inv (s.putImage image) := by
  have hnone : s.faultCause = .none := by
    by_contra hne
    obtain ⟨-, -, hstarted⟩ := hs.faulted hne
    exact absurd hstarted (by simp [hfresh])
  exact {
    memory := State.putImage_wf hs.memory image
    noFault := hs.noFault
    faulted := fun h => absurd hnone h
    justified := faultJustified_of_none hnone
    fresh := hs.fresh
    loaderStaysHigh := fun h a ha => (putImage_memRead_low hs.memory hn ha).trans (hs.loaderStaysHigh h a ha) }

theorem inv_hostLoad {s : State} (hs : Inv s) (image : List Byte) : Inv (s.hostLoad image).1 := by
  unfold State.hostLoad
  split
  · exact hs
  · next hn =>
    split
    · exact hs
    · next hfresh => exact inv_putImage hs (Nat.not_lt.1 hn) (Bool.eq_false_iff.2 hfresh)

/-- Settles O19: the cycle by O18, each other act by its own lemma. -/
theorem hostKeepsTheInvariant : Obligations.HostKeepsTheInvariant := by
  intro r s t reply hs h
  cases r with
  | reset =>
    cases h
    exact inv_hostReset s
  | load image =>
    have ht : (s.hostLoad image).1 = t := congrArg Prod.fst (Host.Outcome.next.inj h)
    exact ht ▸ inv_hostLoad hs image
  | setKeypad keys =>
    cases h
    exact inv_setKeypad hs keys
  | cycle =>
    obtain ⟨o, hcyc, -⟩ := interact_cycle_eq_next.1 h
    exact stepKeepsTheInvariant s t hs (step_of_cycle hcyc)
  | readFramebuffer | readFault =>
    cases h
    exact hs
  | clearDirty =>
    cases h
    exact inv_clearDirty hs

end Sys2Proof.Machine
end

section
/-! The host's table, reset and the loader (60_exceptions.md R250; 70_reset_and_hazards.md R270, R273). -/

namespace Sys2Proof.Machine

/-- Settles O59: each clause is one arm of `interact`. -/
theorem hostInteractionsDoWhatTheTableSays : Obligations.HostInteractionsDoWhatTheTableSays :=
  fun _ => ⟨fun _ => rfl, rfl, rfl, rfl, fun _ o h => interact_cycle_eq_next.2 ⟨o, h, rfl⟩⟩

/-- The font ends at 0x050, and an unlisted byte above it reads 0 (R270, R272). -/
theorem unlistedByte_of_ge {a : Nat} (ha : 0x50 ≤ a) : unlistedByte a = 0 :=
  List.getD_eq_default _ _ ha

theorem reset_memRead {a : Nat} (ha : a < 4096) : State.reset.memRead a = unlistedByte a := by
  rw [State.memRead, Nat.mod_eq_of_lt ha]
  rfl

/-- Settles O57: every element as the record writes it; memory lists nothing, so it reads as the font and zeros. -/
theorem resetSetsEveryElement : Obligations.ResetSetsEveryElement := by
  intro s
  refine ⟨s.hostReset, rfl, fun r => Vector.getElem_replicate r.isLt, rfl, rfl,
    fun j => Vector.getElem_replicate j.isLt, rfl, rfl, rfl, fun k => Vector.getElem_replicate k.isLt,
    Framebuffer.blank_linear, rfl, fun a hlo hhi => ?zeros, ?font, rfl, rfl, rfl, rfl, rfl⟩
  case zeros => exact (reset_memRead hhi).trans (unlistedByte_of_ge hlo)
  case font =>
    have hfont : (List.range 80).map State.reset.memRead = fontRom := by decide
    exact hfont

/-- Settles O58: the copy is one block of bytes from 0x200 up, and the two refusals are the loader's tests. -/
theorem loaderCopiesOrRefuses : Obligations.LoaderCopiesOrRefuses := by
  intro image s hs
  refine ⟨fun hn hfresh => ?copies, fun hn => ?tooLarge, fun hn hstarted => ?tooLate⟩
  case copies =>
    have hload : s.hostLoad image = (s.writeBytes 0x200 image, .loaded) := by
      simp only [State.hostLoad, Config.progMaxLen, Nat.not_lt.2 hn, hfresh, Bool.false_eq_true, if_false]
      rfl
    refine ⟨_, congrArg Host.Outcome.next hload, fun j hj => ?byte, rfl,
      (OnlyChanges.refl _ s).writeBytes hs _ fun j hj => ?frame⟩
    case byte => exact State.writeBytes_memRead_at hs _ (by omega) hj
    case frame =>
      rw [imageAddress_mod hj hn]
      exact List.mem_map_of_mem (List.mem_range.2 hj)
  case tooLarge =>
    refine congrArg Host.Outcome.next ?_
    simp only [State.hostLoad, Config.progMaxLen, hn, if_true]
  case tooLate =>
    refine congrArg Host.Outcome.next ?_
    simp only [State.hostLoad, Config.progMaxLen, Nat.not_lt.2 hn, hstarted, if_false, if_true]

end Sys2Proof.Machine
end

section
/-! Many cycles: every cycle answers, cycles that only age the timers, and timers that count through any program
(60_exceptions.md section 4, R256; 70_reset_and_hazards.md section 4). -/

namespace Sys2Proof.Machine

/-- One cycle of a core that does nothing else: a cycle has run, and the timers tick. -/
def State.age (s : State) : State := s.beginCycle.timerTick

/-- Where each cycle only ages the core, and the next one finds it so again, `k` cycles age it `k` times. -/
theorem runCycles_of_aging {P : State → Prop} (hstep : ∀ s, P s → step s = .next s.age) (hkeep : ∀ s, P s → P s.age) :
    ∀ (k : Nat) (s : State), P s → runCycles k s = .next (State.age^[k] s) ∧ P (State.age^[k] s)
  | 0, _, hs => ⟨rfl, hs⟩
  | k + 1, s, hs => by
    rw [runCycles_succ k (hstep s hs), Function.iterate_succ_apply]
    exact runCycles_of_aging hstep hkeep k s.age (hkeep s hs)

theorem OnlyChanges.beginCycle {c : Changes} {s t : State} (h : OnlyChanges c s t) :
    OnlyChanges c s.beginCycle t.beginCycle := by
  obtain ⟨hregs, hidx, hstack, hdt, hst, hkey, hscreen, hmem, hfault, hdraws, -⟩ := h
  exact ⟨hregs, hidx, hstack, hdt, hst, hkey, hscreen, hmem, hfault, hdraws, rfl⟩

/-- A core aged `k` times: both timers `k` less, not below 0, and nothing else but `started` changed. -/
theorem iterate_age (k : Nat) (s : State) :
    (State.age^[k] s).pc = s.pc ∧ (State.age^[k] s).dt.toNat = s.dt.toNat - k ∧
      (State.age^[k] s).st.toNat = s.st.toNat - k ∧
      OnlyChanges { dt := true, st := true } { s with started := (State.age^[k] s).started } (State.age^[k] s) := by
  induction k with
  | zero => exact ⟨rfl, rfl, rfl, OnlyChanges.refl _ s⟩
  | succ k ih =>
    obtain ⟨hpc, hdt, hst, hrest⟩ := ih
    rw [Function.iterate_succ_apply']
    refine ⟨hpc, ?dt, ?st, hrest.beginCycle.timerTick rfl rfl⟩
    case dt =>
      refine (tickDown_toNat _).trans ?_
      rw [State.beginCycle_dt, hdt]
      omega
    case st =>
      refine (tickDown_toNat _).trans ?_
      rw [State.beginCycle_st, hst]
      omega

/-! ## Every cycle answers -/

theorem runCycles_total : ∀ (k : Nat) (s : State), ∃ t, runCycles k s = .next t
  | 0, s => ⟨s, rfl⟩
  | k + 1, s => by
    obtain ⟨t, o, h, -⟩ := cycle_effect s
    rw [runCycles_succ k (step_of_cycle h)]
    exact runCycles_total k t

/-- Settles O11: each cycle has an effect, so any number has, and at the end of a run each only ages the core. -/
theorem everyCycleReturnsAState : Obligations.EveryCycleReturnsAState := by
  refine ⟨fun s => ?one, runCycles_total, fun k s hs => ?endOfRun⟩
  case one =>
    obtain ⟨t, o, h, -⟩ := cycle_effect s
    exact ⟨t, o, h, step_of_cycle h⟩
  case endOfRun =>
    obtain ⟨hrun, hend⟩ := runCycles_of_aging (P := fun s => endOfRun s = true)
      (fun _ h => step_of_cycle (cycle_of_endOfRun h)) (fun _ h => h) k s hs
    exact ⟨_, hrun, hend, iterate_age k s⟩

/-! ## Waiting for a key -/

/-- A running core that stands at LD Vx, K with no key down. -/
def WaitsForKey (x : Reg) (s : State) : Prop :=
  s.faultCause = .none ∧ decodeWord s.fetchWord = .instr (.ldVxK x) ∧ ∀ j : Fin 16, s.key[j.val] = false

/-- Its cycle only ages it, with the stalled output set (60_exceptions.md R254, R255). -/
theorem cycle_of_waitsForKey {x : Reg} {s : State} (h : WaitsForKey x s) :
    cycle s = .next (s.age, ⟨s.tickBeeps, none, true⟩) := by
  obtain ⟨hs, hd, hkeys⟩ := h
  have hr := State.not_halted_iff.2 hs
  have hu : exec (.ldVxK x) s.beginCycle = .next s.beginCycle :=
    exec_ldVxK_of_none x (State.lowestKey_eq_none.2 hkeys)
  rw [cycle_of_completed_instr hr hd hu hr, stalledBy_iff.2 ⟨⟨x, rfl⟩, hkeys⟩]
  rfl

/-- Settles O48: the lowest key down is written, and with none down the cycle only ages the core. -/
theorem waitForKeyTakesTheLowest : Obligations.WaitForKeyTakesTheLowest := by
  refine ⟨encodes_ldVxK, fun x k s hk hlow => ?takes, fun x s hkeys => ?keeps, fun x s hs hd hkeys => ?stalls⟩
  case takes =>
    refine ⟨_, exec_ldVxK_of_some x (State.lowestKey_eq_some.2 ⟨hk, hlow⟩), ?_, rfl, onlyChanges_setV_advance s x _⟩
    rw [State.advance_V, State.setV_V_same, BitVec.toNat_ofNat]
    omega
  case keeps => exact exec_ldVxK_of_none x (State.lowestKey_eq_none.2 hkeys)
  case stalls =>
    exact ⟨_, _, cycle_of_waitsForKey ⟨hs, hd, hkeys⟩, rfl, rfl, iterate_age 1 s⟩

/-- Settles O49: a waiting core waits again after its cycle, so each of the k + 1 cycles only ages it. -/
theorem waitingAgesOnlyTheTimers : Obligations.WaitingAgesOnlyTheTimers := by
  intro k x s hs hd hkeys
  obtain ⟨hrun, hwait⟩ := runCycles_of_aging (P := WaitsForKey x)
    (fun _ h => step_of_cycle (cycle_of_waitsForKey h)) (fun _ h => h) k s ⟨hs, hd, hkeys⟩
  have hage := iterate_age (k + 1) s
  rw [Function.iterate_succ_apply'] at hage
  exact ⟨_, _, _, hrun, cycle_of_waitsForKey hwait, rfl, hage⟩

/-! ## Timers through any program -/

/-- Only reset clears a fault (60_exceptions.md R236): a core without one had none before. -/
theorem faultCause_before_step {s t : State} (h : step s = .next t) (ht : t.faultCause = .none) :
    s.faultCause = .none := by
  obtain ⟨o, he⟩ := effect_of_step h
  cases he with
  | halted => exact ht
  | faults hr | completes hr | unknown hr => exact State.not_halted_iff.1 hr

/-- A value that every step without a fault counts down by one, not below 0, is `k` less after `k` steps; and no fault
was taken before. -/
theorem countDown_of_steps {P : State → Prop} {f : State → Nat}
    (hone : ∀ s t, P s → step s = .next t → t.faultCause = .none → f t = f s - 1) :
    ∀ (k : Nat) (s t : State), Steps P k s t → t.faultCause = .none → s.faultCause = .none ∧ f t = f s - k
  | 0, _, _, rfl, ht => ⟨ht, rfl⟩
  | k + 1, s, t, ⟨hP, u, hu, hrest⟩, ht => by
    obtain ⟨hnone, hcount⟩ := countDown_of_steps hone k u t hrest ht
    refine ⟨faultCause_before_step hu hnone, ?_⟩
    have hfirst := hone s u hP hu hnone
    omega

theorem dt_of_step {s t : State} (hne : ∀ x, decodeWord s.fetchWord ≠ .instr (.ldDtVx x)) (h : step s = .next t)
    (ht : t.faultCause = .none) : t.dt.toNat = s.dt.toNat - 1 := by
  obtain ⟨o, hcyc⟩ := step_eq_next.1 h
  obtain ⟨d, e, hd, -, -, -, hdt, -⟩ := timersTickEveryCompletedCycle s t o (faultCause_before_step h ht) hcyc ht
  rw [hdt, hd hne]

theorem st_and_beep_of_cycle {s t : State} {o : Outputs} (hne : ∀ x, decodeWord s.fetchWord ≠ .instr (.ldStVx x))
    (h : cycle s = .next (t, o)) (ht : t.faultCause = .none) :
    t.st.toNat = s.st.toNat - 1 ∧ (o.beep = true ↔ s.st = 1) := by
  obtain ⟨d, e, -, -, he, -, -, hst, hbeep⟩ :=
    timersTickEveryCompletedCycle s t o (faultCause_before_step (step_of_cycle h) ht) h ht
  obtain rfl := he hne
  exact ⟨hst, hbeep⟩

/-- Settles O50: each step without LD DT and without a fault counts DT down by one. -/
theorem delayTimerReadsElapsedCycles : Obligations.DelayTimerReadsElapsedCycles := by
  intro k s t hsteps ht
  obtain ⟨-, hdt⟩ := countDown_of_steps (f := fun s => s.dt.toNat) (fun _ _ => dt_of_step) k s t hsteps ht
  exact hdt

/-- Settles O51: after k cycles ST is k less, so the next one finds it at 1 exactly when it was k + 1. -/
theorem beepComesInTheLastCycleOfTheSoundTimer : Obligations.BeepComesInTheLastCycleOfTheSoundTimer := by
  intro k s t u o hsteps hne hcyc hu
  have hone : ∀ s t, (∀ x, decodeWord s.fetchWord ≠ .instr (.ldStVx x)) → step s = .next t → t.faultCause = .none →
      t.st.toNat = s.st.toNat - 1 := by
    intro s t hne h ht
    obtain ⟨o, hcyc⟩ := step_eq_next.1 h
    exact (st_and_beep_of_cycle hne hcyc ht).1
  have ht := faultCause_before_step (step_of_cycle hcyc) hu
  obtain ⟨-, hst⟩ := countDown_of_steps (f := fun s => s.st.toNat) hone k s t hsteps ht
  have hone_toNat : (1 : Byte).toNat = 1 := rfl
  calc o.beep = true
      ↔ t.st = 1 := (st_and_beep_of_cycle hne hcyc hu).2
    _ ↔ t.st.toNat = 1 := by rw [← BitVec.toNat_inj, hone_toNat]
    _ ↔ s.st.toNat = k + 1 := by omega

end Sys2Proof.Machine
end

section
/-! Two fields that instructions do not read: ST, which nothing reads (44_keys_timers.md, last rule), and the count of
draws, which RND alone reads (60_exceptions.md R249). -/

namespace Sys2Proof.Machine

namespace State

/-- `s` with another sound timer and another count of draws. -/
def mapHidden (g : Byte → Byte) (k : Nat → Nat) (s : State) : State := { s with st := g s.st, draws := k s.draws }

variable (g : Byte → Byte) (k : Nat → Nat)

theorem skipIf_mapHidden (s : State) (c : Bool) : (s.mapHidden g k).skipIf c = (s.skipIf c).mapHidden g k := by
  cases c <;> rfl

theorem assignRegs_mapHidden (f : Reg → Byte) (rs : List Reg) (s : State) :
    (s.mapHidden g k).assignRegs f rs = (s.assignRegs f rs).mapHidden g k := by
  induction rs generalizing s with
  | nil => rfl
  | cons r rs ih => exact ih (s.setV r (f r))

end State

/-- An instruction other than LD ST, which writes the one, and RND, which uses the other, does the same with both
replaced and carries them along. -/
theorem exec_mapHidden (g : Byte → Byte) (k : Nat → Nat) {i : Instr} {s t : State} (hst : ∀ x, i ≠ .ldStVx x)
    (hrnd : ∀ x kk, i ≠ .rnd x kk) (h : exec i s = .next t) : exec i (s.mapHidden g k) = .next (t.mapHidden g k) := by
  cases i with
  | ldStVx x => exact absurd rfl (hst x)
  | rnd x kk => exact absurd rfl (hrnd x kk)
  | ret =>
    by_cases hsp : s.sp = 0
    · cases (exec_ret_of_empty hsp).symm.trans h
      exact exec_ret_of_empty (s := s.mapHidden g k) hsp
    · have hpos := sp_pos_of_ne_zero hsp
      cases (exec_ret_of_pos hpos).symm.trans h
      exact exec_ret_of_pos (s := s.mapHidden g k) hpos
  | call nnn =>
    by_cases hsp : s.sp = 16
    · cases (exec_call_of_full nnn hsp).symm.trans h
      exact exec_call_of_full (s := s.mapHidden g k) nnn hsp
    · have hlt := sp_lt_of_ne_full hsp
      cases (exec_call_of_lt nnn hlt).symm.trans h
      exact exec_call_of_lt (s := s.mapHidden g k) nnn hlt
  | skp x =>
    by_cases hx : (s.V x).toNat > 0xF
    · cases (exec_skp_of_gt hx).symm.trans h
      exact exec_skp_of_gt (s := s.mapHidden g k) hx
    · have hsel : (s.V x).toNat = (⟨(s.V x).toNat, by omega⟩ : Fin 16).val := rfl
      cases (exec_skp_of_key hsel).symm.trans h
      rw [← State.skipIf_mapHidden]
      exact exec_skp_of_key (s := s.mapHidden g k) hsel
  | sknp x =>
    by_cases hx : (s.V x).toNat > 0xF
    · cases (exec_sknp_of_gt hx).symm.trans h
      exact exec_sknp_of_gt (s := s.mapHidden g k) hx
    · have hsel : (s.V x).toNat = (⟨(s.V x).toNat, by omega⟩ : Fin 16).val := rfl
      cases (exec_sknp_of_key hsel).symm.trans h
      rw [← State.skipIf_mapHidden]
      exact exec_sknp_of_key (s := s.mapHidden g k) hsel
  | ldVxK x =>
    cases hk : s.lowestKey with
    | some j =>
      cases (exec_ldVxK_of_some x hk).symm.trans h
      exact exec_ldVxK_of_some (s := s.mapHidden g k) x hk
    | none =>
      cases (exec_ldVxK_of_none x hk).symm.trans h
      exact exec_ldVxK_of_none (s := s.mapHidden g k) x hk
  | seByte | sneByte | seReg | sneReg =>
    cases h
    exact congrArg Host.Outcome.next (s.skipIf_mapHidden g k _)
  | loadRegs x =>
    cases (exec_loadRegs x s).symm.trans h
    rw [exec_loadRegs]
    exact congrArg (fun u => Host.Outcome.next (u.setI (s.indexPast x)).advance) (s.assignRegs_mapHidden g k _ _)
  | _ =>
    cases h
    rfl

/-! ## The sound timer -/

/-- With another ST every instruction does the same but for ST: LD ST writes the same value, RND draws the same byte. -/
theorem exec_withSt (e : Byte) {i : Instr} {s t : State} (h : exec i s = .next t) :
    ∃ e', exec i { s with st := e } = .next { t with st := e' } := by
  by_cases hst : ∃ x, i = .ldStVx x
  · obtain ⟨x, rfl⟩ := hst
    cases h
    exact ⟨s.V x, rfl⟩
  by_cases hrnd : ∃ x kk, i = .rnd x kk
  · obtain ⟨x, kk, rfl⟩ := hrnd
    cases h
    exact ⟨e, rfl⟩
  · exact ⟨e, exec_mapHidden (fun _ => e) id (fun x hx => hst ⟨x, hx⟩) (fun x kk hx => hrnd ⟨x, kk, hx⟩) h⟩

theorem endCycle_withSt (u : State) (e : Byte) :
    { ({ u with st := e } : State).endCycle with st := 0 } = { u.endCycle with st := 0 } := by
  cases hu : u.halted with
  | true => rw [endCycle_of_halted hu, endCycle_of_halted (s := { u with st := e }) hu]
  | false =>
    rw [endCycle_of_running hu, endCycle_of_running (s := { u with st := e }) hu]
    rfl

theorem outputsOf_withSt (d : Decoded) (s u : State) (e e' : Byte) :
    { outputsOf d { s with st := e } { u with st := e' } with beep := false } =
      { outputsOf d s u with beep := false } := by
  have hh : ({ u with st := e' } : State).halted = u.halted := rfl
  rw [outputsOf, outputsOf, hh]
  cases u.halted <;> rfl

/-- Settles O22: the instruction carries ST along or writes it, the tick counts it down, and the beep alone looks at
it. -/
theorem soundTimerIsNeverRead : Obligations.SoundTimerIsNeverRead := by
  intro s t o e h
  obtain ⟨hs, rfl, rfl⟩ | ⟨hs, i, u, hd, hu, rfl, rfl⟩ | ⟨hs, why, hd, rfl, rfl⟩ := cycle_cases h
  · exact ⟨_, _, cycle_of_halted (s := { t with st := e }) hs, rfl, rfl⟩
  · obtain ⟨e', hu'⟩ := exec_withSt e hu
    exact ⟨_, _, cycle_of_instr (s := { s with st := e }) hs hd hu', endCycle_withSt u e', outputsOf_withSt _ s u e e'⟩
  · exact ⟨_, _, cycle_of_unknown (s := { s with st := e }) hs hd, rfl, rfl⟩

/-! ## The count of draws -/

theorem exec_withDraws (d : Nat) {i : Instr} {s t : State} (hrnd : ∀ x kk, i ≠ .rnd x kk) (h : exec i s = .next t) :
    exec i { s with draws := d } = .next { t with draws := d } := by
  by_cases hst : ∃ x, i = .ldStVx x
  · obtain ⟨x, rfl⟩ := hst
    cases h
    rfl
  · exact exec_mapHidden id (fun _ => d) (fun x hx => hst ⟨x, hx⟩) hrnd h

theorem endCycle_withDraws (u : State) (d : Nat) :
    ({ u with draws := d } : State).endCycle = { u.endCycle with draws := d } := by
  cases hu : u.halted with
  | true => rw [endCycle_of_halted hu, endCycle_of_halted (s := { u with draws := d }) hu]
  | false =>
    rw [endCycle_of_running hu, endCycle_of_running (s := { u with draws := d }) hu]
    rfl

/-- A cycle whose word is not RND does the same whatever the count of draws. -/
theorem cycle_withDraws (d : Nat) {s t : State} {o : Outputs} (h : cycle s = .next (t, o))
    (hrnd : ∀ x kk, decodeWord s.fetchWord ≠ .instr (.rnd x kk)) :
    cycle { s with draws := d } = .next ({ t with draws := d }, o) := by
  obtain ⟨hs, rfl, rfl⟩ | ⟨hs, i, u, hd, hu, rfl, rfl⟩ | ⟨hs, why, hd, rfl, rfl⟩ := cycle_cases h
  · exact cycle_of_halted (s := { t with draws := d }) hs
  · have hi : ∀ x kk, i ≠ .rnd x kk := fun x kk e => hrnd x kk (hd.trans (congrArg _ e))
    rw [← endCycle_withDraws]
    exact cycle_of_instr (s := { s with draws := d }) hs hd (exec_withDraws d hi hu)
  · exact cycle_of_unknown (s := { s with draws := d }) hs hd

theorem draws_of_cycle {s t : State} {o : Outputs} (h : cycle s = .next (t, o))
    (hrnd : ∀ x kk, decodeWord s.fetchWord ≠ .instr (.rnd x kk)) : t.draws = s.draws := by
  cases effect_of_cycle h with
  | halted | faults | unknown => rfl
  | completes _ hd hf hu hc => exact hc.drawCount (frameOf_draws fun x kk e => hrnd x kk (hd.trans (congrArg _ e)))

/-- Settles O24: RND moves the count by one; any other cycle leaves it and does not look at it. -/
theorem onlyRndDrawsRandomBytes : Obligations.OnlyRndDrawsRandomBytes := by
  refine fun s t o h => ⟨fun ⟨x, kk, hs, hd⟩ => ?rnd,
    fun hrnd => ⟨draws_of_cycle h hrnd, fun d => cycle_withDraws d h hrnd⟩⟩
  case rnd =>
    have hr := State.not_halted_iff.2 hs
    cases (cycle_of_completed_instr hr hd rfl hr).symm.trans h
    rfl

end Sys2Proof.Machine
end

section
/-! DRW: the sprite as a list of different cells, each toggled once (41_display.md R101 to R105). -/

namespace Sys2Proof.Machine

/-! ## Cells and linear indices (10_state.md R30) -/

namespace Framebuffer

/-- The row and column of linear cell `k`. -/
def cellOf (k : Fin 2048) : Fin 32 × Fin 64 := (⟨k.val / 64, by omega⟩, ⟨k.val % 64, by omega⟩)

/-- The linear index of a cell. -/
def indexOf (p : Fin 32 × Fin 64) : Fin 2048 := ⟨p.1.val * 64 + p.2.val, by omega⟩

theorem linear_cellOf (fb : Framebuffer) (k : Fin 2048) : fb.linear k = fb.cell (cellOf k).1 (cellOf k).2 := rfl

theorem linear_indexOf (fb : Framebuffer) (p : Fin 32 × Fin 64) : fb.linear (indexOf p) = fb.cell p.1 p.2 :=
  fb.linear_eq_cell p.1 p.2

theorem cellOf_indexOf (p : Fin 32 × Fin 64) : cellOf (indexOf p) = p := by
  apply Prod.ext
  all_goals
    apply Fin.ext
    simp only [cellOf, indexOf]
    omega

/-- Two framebuffers that agree on every linear index are equal. -/
theorem ext_linear {f g : Framebuffer} (h : ∀ k, f.linear k = g.linear k) : f = g :=
  ext_cell fun r c => by rw [← linear_eq_cell, ← linear_eq_cell, h]

end Framebuffer

/-! ## The cells of a sprite -/

/-- The cells that the set bits of a sprite of `n` rows fall on, row by row, wrapped per axis (R101, R103). -/
def State.spriteCells (s : State) (cx cy base n : Nat) : List (Fin 32 × Fin 64) :=
  ((List.range n ×ˢ List.range 8).filter fun p => spriteBit (s.memRead (base + p.1)) p.2).map
    fun p => (Fin.ofNat 32 (cy + p.1), Fin.ofNat 64 (cx + p.2))

/-- The model's two nested loops toggle the cells of the sprite one after another. -/
theorem drawSprite_eq_foldl (s : State) (cx cy base n : Nat) :
    s.drawSprite cx cy base n = (s.spriteCells cx cy base n).foldl (fun a p => a.toggle p.1 p.2) ⟨s.fb, false⟩ := by
  have hprod : List.range n ×ˢ List.range 8 = (List.range n).flatMap fun r => (List.range 8).map (Prod.mk r) := rfl
  rw [State.spriteCells, List.foldl_map, List.foldl_filter, hprod, List.foldl_flatMap]
  simp only [List.foldl_map]
  rfl

/-- At most 32 rows and 8 columns do not wrap onto themselves: "one sprite never covers the same cell twice" (R103). -/
theorem nodup_spriteCells (s : State) (cx cy base : Nat) {n : Nat} (hn : n ≤ 32) :
    (s.spriteCells cx cy base n).Nodup := by
  refine ((List.nodup_range.product List.nodup_range).filter _).map_on fun ⟨r, c⟩ hp ⟨r', c'⟩ hq e => ?_
  simp only [List.mem_filter, List.mem_product, List.mem_range] at hp hq
  simp only [Prod.mk.injEq, Fin.ext_iff, Fin.ofNat] at e
  apply Prod.ext <;> omega

/-- The sprite's cells are the cells of `SpritePixel`. -/
theorem cellOf_mem_spriteCells (s : State) (x y : Reg) (n : Nat) (k : Fin 2048) :
    Framebuffer.cellOf k ∈ s.spriteCells (s.V x).toNat (s.V y).toNat s.i.toNat n ↔ SpritePixel s x y n k := by
  simp only [State.spriteCells, List.mem_map, List.mem_filter, List.mem_product, List.mem_range, Prod.exists,
    Framebuffer.cellOf, Prod.mk.injEq, Fin.ext_iff, Fin.ofNat, spriteBit, SpritePixel]
  refine exists_congr fun r => exists_congr fun c =>
    ⟨fun ⟨⟨⟨hr, hc⟩, hbit⟩, hrow, hcol⟩ => ?_, fun ⟨hr, hc, hk, hbit⟩ => ?_⟩
  · exact ⟨hr, hc, by omega, hbit⟩
  · exact ⟨⟨⟨hr, hc⟩, hbit⟩, by omega, by omega⟩

/-! ## One draw -/

/-- The canvas of one DRW: a cell is toggled exactly when it is a pixel of the sprite. -/
theorem drawSprite_linear (s : State) (x y : Reg) {n : Nat} (hn : n < 16) (k : Fin 2048) :
    (SpritePixel s x y n k →
      (s.drawSprite (s.V x).toNat (s.V y).toNat s.i.toNat n).fb.linear k = !s.fb.linear k) ∧
    (¬ SpritePixel s x y n k →
      (s.drawSprite (s.V x).toNat (s.V y).toNat s.i.toNat n).fb.linear k = s.fb.linear k) := by
  obtain ⟨hcell, -⟩ := Canvas.foldl_toggle _ (nodup_spriteCells s (s.V x).toNat (s.V y).toNat s.i.toNat
    (show n ≤ 32 by omega)) ⟨s.fb, false⟩
  rw [drawSprite_eq_foldl, ← cellOf_mem_spriteCells, Framebuffer.linear_cellOf, hcell]
  exact ⟨fun h => by simp [h, Framebuffer.linear_cellOf], fun h => by simp [h, Framebuffer.linear_cellOf]⟩

/-- Its collision: some pixel of the sprite fell on a cell that was on. -/
theorem drawSprite_collision_iff (s : State) (x y : Reg) {n : Nat} (hn : n < 16) :
    (s.drawSprite (s.V x).toNat (s.V y).toNat s.i.toNat n).collision = true ↔
      ∃ k, SpritePixel s x y n k ∧ s.fb.linear k = true := by
  obtain ⟨-, hcoll⟩ := Canvas.foldl_toggle _ (nodup_spriteCells s (s.V x).toNat (s.V y).toNat s.i.toNat
    (show n ≤ 32 by omega)) ⟨s.fb, false⟩
  rw [drawSprite_eq_foldl, hcoll, Bool.false_or, List.any_eq_true]
  constructor
  · rintro ⟨p, hp, hon⟩
    refine ⟨Framebuffer.indexOf p, (cellOf_mem_spriteCells s x y n _).1 ?_, (s.fb.linear_indexOf p).trans hon⟩
    rwa [Framebuffer.cellOf_indexOf]
  · rintro ⟨k, hk, hon⟩
    exact ⟨Framebuffer.cellOf k, (cellOf_mem_spriteCells s x y n k).2 hk, hon⟩

theorem flagByte_of_true {b : Bool} (h : b = true) : flagByte b = 1 := by rw [h]; rfl

theorem flagByte_of_not {b : Bool} (h : ¬ b = true) : flagByte b = 0 := by rw [Bool.eq_false_iff.2 h]; rfl

/-- Settles O29: the sprite's cells are all different, so each is toggled once, and the collision is that of the screen
before. -/
theorem drawSpriteTogglesItsPixels : Obligations.DrawSpriteTogglesItsPixels := by
  refine ⟨encodes_drw, fun x y n s hn => ⟨_, rfl, fun k => (drawSprite_linear s x y hn k).1,
    fun k => (drawSprite_linear s x y hn k).2, fun h => ?collision, fun h => ?noCollision, rfl, rfl,
    (((OnlyChanges.refl _ s).setFb rfl _).setV (List.mem_singleton_self vF) _).advance⟩⟩
  case collision =>
    rw [State.advance_V, State.setV_V_same, flagByte_of_true ((drawSprite_collision_iff s x y hn).2 h)]
  case noCollision =>
    rw [State.advance_V, State.setV_V_same, flagByte_of_not fun hc => h ((drawSprite_collision_iff s x y hn).1 hc)]

/-! ## Two draws -/

theorem OnlyChanges.trans {c : Changes} {s t u : State} (h : OnlyChanges c s t) (h' : OnlyChanges c t u) :
    OnlyChanges c s u := by
  obtain ⟨hregs, hidx, hstack, hdt, hst, hkey, hscreen, hmem, ⟨hcause, hpc, hword⟩, hdraws, hstarted⟩ := h
  obtain ⟨hregs', hidx', hstack', hdt', hst', hkey', hscreen', hmem', ⟨hcause', hpc', hword'⟩, hdraws', hstarted'⟩ := h'
  exact ⟨fun r hr => (hregs' r hr).trans (hregs r hr), fun hc => (hidx' hc).trans (hidx hc),
    fun hc => ⟨(hstack' hc).1.trans (hstack hc).1, (hstack' hc).2.trans (hstack hc).2⟩,
    fun hc => (hdt' hc).trans (hdt hc), fun hc => (hst' hc).trans (hst hc), hkey'.trans hkey,
    fun hc => ⟨(hscreen' hc).1.trans (hscreen hc).1, (hscreen' hc).2.trans (hscreen hc).2⟩,
    fun a ha => (hmem' a ha).trans (hmem a ha), ⟨hcause'.trans hcause, hpc'.trans hpc, hword'.trans hword⟩,
    fun hc => (hdraws' hc).trans (hdraws hc), hstarted'.trans hstarted⟩

/-- The sprite of a later state is the same when its coordinates, I and the bytes it reads are. -/
theorem spritePixel_congr {c : Changes} {s t : State} (hc : OnlyChanges c s t) (hidx : c.idx = false)
    (hbytes : c.bytes = []) {x y : Reg} (hx : t.V x = s.V x) (hy : t.V y = s.V y) (n : Nat) (k : Fin 2048) :
    SpritePixel t x y n k ↔ SpritePixel s x y n k := by
  have hmem : ∀ a, t.memRead a = s.memRead a := fun a => hc.byte (by rw [hbytes]; exact List.not_mem_nil)
  simp only [SpritePixel, hx, hy, hc.index hidx, hmem]

/-- A sprite has a pixel exactly when one of its bytes is not 0. -/
theorem exists_spritePixel_iff (s : State) (x y : Reg) (n : Nat) :
    (∃ k, SpritePixel s x y n k) ↔ ∃ r, r < n ∧ s.memRead (s.i.toNat + r) ≠ 0 := by
  constructor
  · rintro ⟨k, r, c, hr, hc, -, hbit⟩
    refine ⟨r, hr, fun hzero => ?_⟩
    rw [hzero] at hbit
    simp at hbit
  · rintro ⟨r, hr, hne⟩
    obtain ⟨c, hc, hbit⟩ : ∃ c, c < 8 ∧ (s.memRead (s.i.toNat + r)).getLsbD (7 - c) = true := by
      by_contra hall
      refine hne (BitVec.eq_of_getLsbD_eq fun j hj => ?_)
      have hz : (0 : Byte).getLsbD j = false := BitVec.getLsbD_zero
      rw [hz, ← Bool.not_eq_true]
      exact fun hbit => hall ⟨7 - j, by omega, by rwa [show 7 - (7 - j) = j by omega]⟩
    exact ⟨⟨((s.V y).toNat + r) % 32 * 64 + ((s.V x).toNat + c) % 64, by omega⟩, r, c, hr, hc, rfl, hbit⟩

/-- Settles O30: the second draw has the pixels of the first, so it toggles every cell back, and it finds a pixel on
exactly where the first one found it off. -/
theorem drawingTwiceRestoresTheScreen : Obligations.DrawingTwiceRestoresTheScreen := by
  intro x y n s t u hn ht hx hy hu
  obtain ⟨-, hdraw⟩ := drawSpriteTogglesItsPixels
  obtain ⟨t', ht', hton, htoff, -, -, -, htpc, htc⟩ := hdraw x y n s hn
  cases ht.symm.trans ht'
  obtain ⟨u', hu', huon, huoff, hcoll, hnoColl, hdirty, hupc, huc⟩ := hdraw x y n t hn
  cases hu.symm.trans hu'
  have hsame := spritePixel_congr htc rfl rfl hx hy n
  simp only [hsame] at huon huoff hcoll hnoColl
  have hlinear : ∀ k, u.fb.linear k = s.fb.linear k := by
    intro k
    by_cases hk : SpritePixel s x y n k
    · rw [huon k hk, hton k hk, Bool.not_not]
    · rw [huoff k hk, htoff k hk]
  have hfirst : (∃ k, SpritePixel s x y n k ∧ t.fb.linear k = true) ↔
      ∃ k, SpritePixel s x y n k ∧ s.fb.linear k = false :=
    exists_congr fun k => and_congr_right fun hk => by rw [hton k hk, Bool.not_eq_true']
  rw [hfirst] at hcoll hnoColl
  have hflag : u.V vF = 1 ↔ ∃ k, SpritePixel s x y n k ∧ s.fb.linear k = false := by
    refine ⟨fun h1 => by_contra fun hne => ?_, hcoll⟩
    exact absurd (h1.symm.trans (hnoColl hne)) (by decide)
  refine ⟨Framebuffer.ext_linear hlinear, hdirty, ?pc, htc.trans huc, hflag, ?bit, fun hempty => ?emptyScreen⟩
  case pc =>
    rw [hupc, htpc]
    bv_omega
  case bit => exact (em _).imp hcoll hnoColl
  case emptyScreen =>
    rw [hflag, ← exists_spritePixel_iff s x y]
    exact exists_congr fun k => and_iff_left (hempty k)

/-- Every cell of the screen on. -/
def litScreen : Framebuffer := Vector.replicate 32 (Vector.replicate 64 true)

theorem litScreen_linear (k : Fin 2048) : litScreen.linear k = true := by
  simp [litScreen, Framebuffer.linear, Framebuffer.cell]

/-- Refutes O31: on a screen with every cell on, the top row of glyph 0 (the byte 0xF0 at address 0) turns its four
cells off and then on again, so the second draw reports no collision although the sprite has set bits. -/
theorem not_secondDrawFlagsEverySetBit : ¬ Obligations.SecondDrawFlagsEverySetBit := by
  intro h
  have hflag := (h 0 0 1 { State.reset with fb := litScreen } _ _ (by decide) rfl rfl rfl rfl).2
    ⟨0, by decide, by decide⟩
  obtain ⟨-, -, -, -, hexact, -⟩ :=
    drawingTwiceRestoresTheScreen 0 0 1 { State.reset with fb := litScreen } _ _ (by decide) rfl rfl rfl rfl
  obtain ⟨k, -, hoff⟩ := hexact.1 hflag
  exact absurd ((litScreen_linear k).symm.trans hoff) (by decide)

end Sys2Proof.Machine
end
